-- ==== Sys2Proof/Word.lean ====
section
/-!
DEFINITION. The words of the subarufobrob receive core (00_scope.md, 30_encoding.md) and the values of
its numeric domain `NUM` (41_filter_pair.md R170). Only the types stand here: the arithmetic on them is
in Sys2Proof/Machine/Float.lean and Sys2Proof/Machine/Numeric.lean.
-/

namespace Sys2Proof

/-- A raw sample byte or a packet byte. -/
abbrev Byte := BitVec 8

/-- A transaction word `T` (R110): `T[65:64]` is the kind, `T[63:0]` the payload. -/
abbrev Txn := BitVec 66

/-- A value of the IEEE 754 binary32 domain (R170). A value that is not a NaN is its 32 bits, with the
sign in bit 31, the biased exponent in bits 30 to 23 and the fraction in bits 22 to 0 (R113). All NaNs
are the one value `nan`, which has no bits: the spec leaves a NaN's sign and payload open
(93_implementation_defined.md I3; notes/assumptions/4.md). -/
inductive F32 where
  | val (bits : BitVec 32)
  | nan
  deriving DecidableEq, Repr

/-- The two instances of the numeric domain that R170 defines. -/
inductive NumDomain where
  /-- IEEE 754 binary32 under roundTiesToEven, the reference instance. -/
  | binary32
  /-- Rational numbers with exact field operations. -/
  | exact
  deriving DecidableEq, Repr

/-- One `NUM` value (R13, R170), of whichever instance the session uses. -/
inductive NUM where
  | f32 (x : F32)
  | exact (q : Rat)
  deriving DecidableEq, Repr

/-- The refusal reasons of R305. -/
inductive RefusalReason where
  /-- `RESERVED_KIND`: `T[65:64]` is `0b10` or `0b11` (R115 check 1). -/
  | reservedKind
  /-- `KIND_NOT_IN_MODE`: the kind is not admitted in `DEBUG_MODE` (R115 check 2). -/
  | kindNotInMode
  /-- `RESERVED_BITS`: a RAW_SAMPLE with `T[63:16]` not zero (R115 check 3). -/
  | reservedBits
  /-- `NONFINITE_PAYLOAD`: a CPLX_DECIMATED with an infinite or NaN component (R115 check 4). -/
  | nonfinitePayload
  /-- `CFG_ILL_FORMED`: a configuration check of R31 fails at reset. -/
  | cfgIllFormed
  /-- `ABORT_CAUSE_RESERVED`: `ABORT(3)` (R303). -/
  | abortCauseReserved
  deriving DecidableEq, Repr

end Sys2Proof
end

