-- ==== Sys2Proof/Syntax.lean ====
section
/-!
DEFINITION. The transactions of the block's input port: one constructor per row of
spec/opcode_table.json (30_encoding.md R111 to R114, R117).
-/

namespace Sys2Proof

/-- The two transactions. The block runs no program (10_state.md R33): a transaction is what stands for
an instruction, and its order on the input port is the program order (20_memory.md R85). -/
inductive Instr where
  /-- `RAW_SAMPLE` (R112, R140): the in-phase byte `ib = T[7:0]` and the quadrature byte `qb = T[15:8]`. -/
  | rawSample (ib qb : Byte)
  /-- `CPLX_DECIMATED` (R113, R141): the binary32 patterns `iv = T[31:0]` and `qv = T[63:32]`. -/
  | cplxDecimated (iv qv : BitVec 32)
  deriving DecidableEq, Repr

end Sys2Proof
end

