-- ==== Sys2Proof/Decode.lean ====
section
/-!
DEFINITION. The transaction encoding of 30_encoding.md: the decoder, total on 66-bit words and rejecting
by the names of R305, the encoder written from the formats R112 and R113, and the opcode table's rows (R117).
-/

namespace Sys2Proof

/-- `T[65:64]`, the kind field (R110). -/
def kindField (T : Txn) : BitVec 2 := T.extractLsb' 64 2

/-- `T[63:16]`, the reserved field of format TXN-RAW (R112). -/
def rawReserved (T : Txn) : BitVec 48 := T.extractLsb' 16 48

/-- Decode a word: the kind is read first and it alone selects the format (R110, R111). The two rejections
are R115's checks 1 and 3, which look at the encoding alone; checks 2 and 4 (mode, finite payload) are made
where the transaction runs, in R115's order (Sys2Proof/Machine/Step.lean, Transactions.lean). -/
def decode (T : Txn) : Except RefusalReason Instr :=
  if kindField T = 0b00#2 then
    if rawReserved T = 0#48 then .ok (.rawSample (T.extractLsb' 0 8) (T.extractLsb' 8 8))
    else .error .reservedBits
  else if kindField T = 0b01#2 then .ok (.cplxDecimated (T.extractLsb' 0 32) (T.extractLsb' 32 32))
  else .error .reservedKind

/-- A field placed in a word with its bit 0 at bit `lo`. -/
def place (lo : Nat) (x : BitVec w) : Txn := x.setWidth 66 <<< lo

/-- Encode a transaction: each field of its format at its bits (R112, R113). -/
def encode : Instr → Txn
  | .rawSample ib qb => place 64 0b00#2 ||| place 16 0#48 ||| place 8 qb ||| place 0 ib
  | .cplxDecimated iv qv => place 64 0b01#2 ||| place 32 qv ||| place 0 iv

/-- The row's match word (R117, spec/opcode_table.json). -/
def Instr.rowMatch : Instr → Txn
  | .rawSample _ _ => 0x00000000000000000#66
  | .cplxDecimated _ _ => 0x10000000000000000#66

/-- The row's mask (R117, spec/opcode_table.json). -/
def Instr.rowMask : Instr → Txn
  | .rawSample _ _ => 0x3FFFFFFFFFFFF0000#66
  | .cplxDecimated _ _ => 0x30000000000000000#66

/-- The transaction the decoder reads from a word numbered as spec/opcode_table.json numbers it: one
66-bit word, bit 0 the least significant. A number with a bit above bit 65 is no transaction word. -/
def decodeTableWord (nbits w : Nat) : Option Instr :=
  if w % 2 ^ nbits < 2 ^ 66 then
    match decode (BitVec.ofNat 66 (w % 2 ^ nbits)) with
    | .ok i => some i
    | .error _ => none
  else none

end Sys2Proof
end

