-- ==== Sys2Proof/Machine/Float.lean ====
section
/-!
DEFINITION. IEEE 754 binary32 arithmetic, the reference instance of `NUM` (41_filter_pair.md R170, R171):
roundTiesToEven, subnormals produced and consumed, nothing fused, infinities and NaNs as IEEE 754 has
them. Every operation computes its exact result and rounds it once.

A finite binary32 value is an integer multiple of `2^-149`, the least subnormal. That multiple, its
number of UNITS, is what the exact computations below work on.
-/

namespace Sys2Proof

/-- The magnitude code: bits 30 to 0, exponent above fraction. For values that are not NaNs it grows
with the magnitude. -/
def magCode (w : BitVec 32) : Nat := w.toNat % 2 ^ 31

/-- The sign bit, bit 31 (R113). -/
def signBit (w : BitVec 32) : Bool := decide (2 ^ 31 ≤ w.toNat)

/-- The biased exponent, bits 30 to 23 (R113). -/
def expField (w : BitVec 32) : BitVec 8 := w.extractLsb' 23 8

/-- The magnitude code of an infinity: exponent field all ones, fraction zero. -/
def infCode : Nat := 0x7F800000

/-- A finite pattern: its exponent field is not all ones (30_encoding.md R115 check 4). -/
def finiteBits (w : BitVec 32) : Bool := expField w != 0xFF#8

/-- A NaN pattern: exponent field all ones and fraction not zero. -/
def nanBits (w : BitVec 32) : Bool := decide (infCode < magCode w)

/-- The number of units `2^-149` in the magnitude whose code is `m`, for a finite `m`. -/
def unitsOfCode (m : Nat) : Nat :=
  if m / 2 ^ 23 = 0 then m % 2 ^ 23 else (2 ^ 23 + m % 2 ^ 23) * 2 ^ (m / 2 ^ 23 - 1)

/-- The magnitude code of the binary32 value nearest to `num / den` units, ties to even. With `k` the
exponent above the subnormal range, `f` is the significand cut to 24 bits and `r` what was cut off. A
significand rounded up to `2^24` carries into the exponent, and a code past the largest finite one is
the infinity. A result below the least subnormal is rounded like any other: above half of it, to it.
42_magnitude.md R200 says of a product that it rounds to zero there; R170 is followed (DESIGN CHOICE,
notes/assumptions/24.md). -/
def roundUnits (num den : Nat) : Nat :=
  let q := num / den
  let k := if q < 2 ^ 24 then 0 else Nat.log2 q - 23
  let d := den * 2 ^ k
  let f := num / d
  let r := num % d
  let up := if 2 * r < d then 0 else if d < 2 * r then 1 else f % 2
  min (k * 2 ^ 23 + (f + up)) infCode

/-- The value with a sign and a magnitude code. -/
def F32.ofCode (neg : Bool) (m : Nat) : F32 :=
  .val (BitVec.ofNat 32 ((if neg then 2 ^ 31 else 0) + m))

/-- Positive zero. -/
def F32.zero : F32 := .val 0#32

/-- The value of a 32-bit pattern (R113, R114). -/
def F32.ofBits (w : BitVec 32) : F32 := if nanBits w then .nan else .val w

/-- Is the value a NaN? -/
def F32.isNan : F32 → Bool
  | .val w => nanBits w
  | .nan => true

/-- Is the value finite? -/
def F32.finite : F32 → Bool
  | .val w => finiteBits w
  | .nan => false

/-- Is the pattern an infinity? -/
def infBits (w : BitVec 32) : Bool := magCode w == infCode

/-- The signed number of units of a finite pattern. -/
def signedUnits (w : BitVec 32) : Int :=
  if signBit w then -(unitsOfCode (magCode w) : Int) else (unitsOfCode (magCode w) : Int)

/-- The value with the opposite sign; a NaN stays one. -/
def F32.neg : F32 → F32
  | .val w => F32.ofCode (!signBit w) (magCode w)
  | .nan => .nan

/-- Round a signed exact value, given as a whole number of units. An exact zero takes the sign `z`. -/
def roundSigned (z : Bool) (n : Int) : F32 :=
  if n = 0 then F32.ofCode z 0 else F32.ofCode (decide (n < 0)) (roundUnits n.natAbs 1)

/-- `+n` under binary32: the exact sum, rounded once. Infinities of opposite sign give a NaN (R171). An
exact zero sum is `+0`, unless both operands are `-0`. -/
def F32.add : F32 → F32 → F32
  | .val a, .val b =>
    if nanBits a || nanBits b then .nan
    else if infBits a then
      if infBits b && (signBit a != signBit b) then .nan else .val a
    else if infBits b then .val b
    else roundSigned (signBit a && signBit b) (signedUnits a + signedUnits b)
  | _, _ => .nan

/-- `-n` under binary32: `a - b` is `a + (-b)`. -/
def F32.sub (a b : F32) : F32 := F32.add a (F32.neg b)

/-- `*n` under binary32: the exact product, rounded once. A zero times an infinity is a NaN. -/
def F32.mul : F32 → F32 → F32
  | .val a, .val b =>
    let s := signBit a != signBit b
    if nanBits a || nanBits b then .nan
    else if infBits a || infBits b then
      if magCode a == 0 || magCode b == 0 then .nan else F32.ofCode s infCode
    else F32.ofCode s (roundUnits (unitsOfCode (magCode a) * unitsOfCode (magCode b)) (2 ^ 149))
  | _, _ => .nan

/-- Division under binary32: the exact quotient, rounded once. -/
def F32.div : F32 → F32 → F32
  | .val a, .val b =>
    let s := signBit a != signBit b
    if nanBits a || nanBits b then .nan
    else if infBits a then
      if infBits b then .nan else F32.ofCode s infCode
    else if infBits b then F32.ofCode s 0
    else if magCode b == 0 then
      if magCode a == 0 then .nan else F32.ofCode s infCode
    else F32.ofCode s (roundUnits (unitsOfCode (magCode a) * 2 ^ 149) (unitsOfCode (magCode b)))
  | _, _ => .nan

/-- The binary32 value nearest to the natural number `k`, ties to even. -/
def F32.ofNat (k : Nat) : F32 := F32.ofCode false (roundUnits (k * 2 ^ 149) 1)

/-- The binary32 value nearest to a rational, ties to even. -/
def F32.ofRat (q : Rat) : F32 :=
  F32.ofCode (decide (q < 0)) (roundUnits (q.num.natAbs * 2 ^ 149) q.den)

/-- The order of the values that are not NaNs, as a signed magnitude code: both zeros are `0`. -/
def orderKey (w : BitVec 32) : Int :=
  if signBit w then -(magCode w : Int) else (magCode w : Int)

/-- `>n` under binary32: ordered greater-than, false if either operand is a NaN (R170). -/
def F32.gt : F32 → F32 → Bool
  | .val a, .val b => !nanBits a && !nanBits b && decide (orderKey b < orderKey a)
  | _, _ => false

/-- The rational value of a finite pattern: its signed units times `2^-149`. -/
def ratOfBits (w : BitVec 32) : Rat := mkRat (signedUnits w) (2 ^ 149)

end Sys2Proof
end

