-- ==== Sys2Proof/Config.lean ====
section
/-!
DEFINITION. What an implementation or a session fixes: the parameters of 00_scope.md R9, which the block
latches at reset (10_state.md R31), and the values the spec leaves free, which are constants with no body.
-/

namespace Sys2Proof

/-- `RA_MODE`: the start-up rule of the running averages (R9, 43_bit_slicer.md R210). -/
inductive RaMode where
  /-- `ZERO_FILLED`: divide by the window length, full or not. The spec's decision value (D14). -/
  | zeroFilled
  /-- `PARTIAL`: divide by the number of updates seen, up to the window length. -/
  | partialWindow
  deriving DecidableEq, Repr

/-- `BYPASS_CODEC`: how a bypass pair is encoded in the payload (R9, R114; 92_eei_decisions.md D5). It is open
where `NUM` is not binary32 (notes/assumptions/3.md). -/
inductive BypassCodec where
  /-- The reference codec: two binary32 words, each read as its value (R113, R114). -/
  | binary32Pair
  /-- Any other codec: the value of each pattern that it reads otherwise than the reference codec does. There
  are finitely many patterns, so every decoder is one of these. -/
  | table (entries : List (BitVec 32 × Rat))
  deriving DecidableEq, Repr

/-- The configuration `cfg` (R31), every parameter of R9 that R9 does not fix. -/
structure Config where
  /-- `DECIM`: input samples per decimated sample. -/
  decim : Nat
  /-- `SPB`: samples per bit, in decimated samples. -/
  spb : Nat
  /-- `MIN_TRANS`: minimum preamble transition count. -/
  minTrans : Nat
  /-- `DEBUG_MODE`: 0 normal, 1 conversion taps, 2 bypass input, 3 filter taps (R143). -/
  debugMode : Nat
  /-- `NUM`: the numeric domain. -/
  num : NumDomain
  /-- `IQ_CONV[0..255]`: the conversion of an unsigned byte. -/
  iqConv : List NUM
  /-- `NB`: the feed-forward length. -/
  nb : Nat
  /-- `B[0..NB-1]`: the feed-forward coefficients. -/
  b : List NUM
  /-- `NA`: the feedback length; 1 is an FIR filter. -/
  na : Nat
  /-- `A[1..NA-1]`: the feedback coefficients; `A[0] = 1` is implied (R172). -/
  a : List NUM
  /-- `RA_MODE`. -/
  raMode : RaMode
  /-- `LAST_HALF_CHECK`: does a byte close only after its last check half? -/
  lastHalfCheck : Bool
  /-- `W_CNT`: the width of the sample index and of the next-decision register. -/
  wCnt : Nat
  /-- `BYPASS_CODEC`. -/
  bypassCodec : BypassCodec
  deriving DecidableEq, Repr

/-- `PKT_CAP`, fixed by R9. -/
abbrev pktCap : Nat := 10

/-- `TERM_ZEROS`, fixed by R9. -/
abbrev termZeros : Nat := 4

/-- `W_ENV = SPB` (R9). -/
abbrev Config.wEnv (c : Config) : Nat := c.spb

/-- `W_BASE = 8 * SPB` (R9). -/
abbrev Config.wBase (c : Config) : Nat := 8 * c.spb

/-- The bits of the `n`-th value sent to a tap, used where that value is a NaN: FREE (I3;
notes/assumptions/4.md). -/
opaque Config.freeTapBits : Nat → BitVec 32

/-- What the exact instance reads from a binary32 value that is not finite: FREE. No well-formed session
reads one: tables, coefficients and bypass pairs are finite (R31, R115; notes/assumptions/5.md). -/
opaque Config.freeRational : F32 → Rat

/-- The test instance of the conversion table (92_eei_decisions.md D38): `(b - 128) / 128` in binary32.
One step of the byte, `1/128`, is `2^142` units. -/
def testIqConv : List NUM :=
  (List.range 256).map fun b => .f32 (roundSigned false (((b : Int) - 128) * 2 ^ 142))

/-- The configuration of `State.reset`: the decision values of R9 (`binary32`, `ZERO_FILLED`, `false`, 32,
the reference codec) and, for the OPEN parameters, the values of 95_test_vectors.md (identity filter,
`DECIM = 1`, program P1's `SPB` and `MIN_TRANS`, the test table). The open ones are a DESIGN CHOICE
(notes/assumptions/1.md): the host supplies any configuration with a reset input. -/
def Config.reference : Config where
  decim := 1
  spb := 4
  minTrans := 21
  debugMode := 0
  num := .binary32
  iqConv := testIqConv
  nb := 1
  b := [.f32 (.val 0x3F800000#32)]
  na := 1
  a := []
  raMode := .zeroFilled
  lastHalfCheck := false
  wCnt := 32
  bypassCodec := .binary32Pair

end Sys2Proof
end

