-- ==== Sys2Proof/Machine/Numeric.lean ====
section
/-!
DEFINITION. The operators of `NUM` (00_scope.md R13, 41_filter_pair.md R170), each by the session's domain.
An operand is read in that domain; in a well-formed session every value is in it already
(Sys2Proof/Safety.lean), and reading changes nothing.
-/

namespace Sys2Proof

/-- A value read in the binary32 domain. -/
def NUM.toF32 : NUM → F32
  | .f32 x => x
  | .exact q => F32.ofRat q

/-- The exact rational value of a binary32 value. -/
def F32.toRat (x : F32) : Rat :=
  match x with
  | .val w => if finiteBits w then ratOfBits w else Config.freeRational (.val w)
  | .nan => Config.freeRational .nan

/-- A value read in the exact domain. -/
def NUM.toRat : NUM → Rat
  | .f32 x => x.toRat
  | .exact q => q

/-- Is the value one of the domain's? -/
def NUM.inDomain : NumDomain → NUM → Bool
  | .binary32, .f32 _ => true
  | .exact, .exact _ => true
  | _, _ => false

/-- Is the value finite? Every rational is. -/
def NUM.finite : NUM → Bool
  | .f32 x => x.finite
  | .exact _ => true

/-- `0n`. -/
def NUM.zero : NumDomain → NUM
  | .binary32 => .f32 F32.zero
  | .exact => .exact 0

/-- `lit(c)`: the `NUM` value of a configuration constant (R13). -/
def NUM.lit : NumDomain → NUM → NUM
  | .binary32, c => .f32 c.toF32
  | .exact, c => .exact c.toRat

/-- `a +n b`. -/
def NUM.add : NumDomain → NUM → NUM → NUM
  | .binary32, a, b => .f32 (F32.add a.toF32 b.toF32)
  | .exact, a, b => .exact (a.toRat + b.toRat)

/-- `a -n b`. -/
def NUM.sub : NumDomain → NUM → NUM → NUM
  | .binary32, a, b => .f32 (F32.sub a.toF32 b.toF32)
  | .exact, a, b => .exact (a.toRat - b.toRat)

/-- `a *n b`. -/
def NUM.mul : NumDomain → NUM → NUM → NUM
  | .binary32, a, b => .f32 (F32.mul a.toF32 b.toF32)
  | .exact, a, b => .exact (a.toRat * b.toRat)

/-- `a /n k`: division by the integer `k` converted to `NUM`. -/
def NUM.divNat : NumDomain → NUM → Nat → NUM
  | .binary32, a, k => .f32 (F32.div a.toF32 (F32.ofNat k))
  | .exact, a, k => .exact (a.toRat / k)

/-- `a >n b`. -/
def NUM.gt : NumDomain → NUM → NUM → Bool
  | .binary32, a, b => F32.gt a.toF32 b.toF32
  | .exact, a, b => decide (b.toRat < a.toRat)

/-- The rational value that a codec reads from a pattern (30_encoding.md R114). -/
def BypassCodec.ratValue : BypassCodec → BitVec 32 → Rat
  | .binary32Pair, w => (F32.ofBits w).toRat
  | .table entries, w => (entries.lookup w).getD (F32.ofBits w).toRat

/-- `decode_NUM` (30_encoding.md R114). Under binary32 the codec is the reference one: `BYPASS_CODEC` is open for
another `NUM` only (00_scope.md R9; notes/assumptions/3.md). -/
def NUM.decode (codec : BypassCodec) (d : NumDomain) (w : BitVec 32) : NUM :=
  match d with
  | .binary32 => .f32 (F32.ofBits w)
  | .exact => .exact (codec.ratValue w)

end Sys2Proof
end

