-- ==== Sys2Proof/Machine/State.lean ====
section
/-!
DEFINITION. The block's state as plain data (10_state.md R30 to R46), the inputs the host presents
(60_exceptions.md R311, 70_reset_and_hazards.md R364), the events (R308, R309), and the ways a step stops.
-/

namespace Sys2Proof.Machine

/-- The two lanes of the filter pair (41_filter_pair.md R183). -/
inductive Channel where
  | inPhase
  | quadrature
  deriving DecidableEq, Repr

/-- One filter (R34): the input history `xh[0..NB-1]`, newest first; the output history `yh[1..NA-1]`,
newest first; the current output `y`. -/
structure FilterState where
  xh : List NUM
  yh : List NUM
  y : NUM
  deriving DecidableEq, Repr

/-- The two running averages (R36): envelope and baseline. -/
inductive Average where
  | env
  | base
  deriving DecidableEq, Repr

/-- One running average (R36): window, running sum, slot of the next update, updates so far up to the
window length. -/
structure RunningAverage where
  buf : List NUM
  sum : NUM
  pos : Nat
  count : Nat
  deriving DecidableEq, Repr

/-- The framing state (R38). The fourth 2-bit code is never written (R44), so it has no constructor. -/
inductive FsmState where
  | seekPreamble
  | seekPreambleEnd
  | receiving
  deriving DecidableEq, Repr

/-- The 2-bit code of a framing state (R38). -/
def FsmState.code : FsmState → BitVec 2
  | .seekPreamble => 0b00#2
  | .seekPreambleEnd => 0b01#2
  | .receiving => 0b10#2

/-- One value sent to a tap (R308): a `NUM` value, in binary32 as the 32 bits that leave the block. -/
inductive TapValue where
  | binary32 (bits : BitVec 32)
  | exact (q : Rat)
  deriving DecidableEq, Repr

/-- The output events (R308), the block's only outputs. -/
inductive OutputEvent where
  /-- `PACKET(p0..p9)`. -/
  | packet (bytes : Vector Byte pktCap)
  /-- `TAP_CONV(i, q)`. -/
  | tapConv (i q : TapValue)
  /-- `TAP_FILT(i, q)`. -/
  | tapFilt (i q : TapValue)
  deriving DecidableEq, Repr

/-- The trace events (R309); they are not outputs. -/
inductive TraceEvent where
  | bit (b : Bool)
  | preambleSeen
  | malformedTerminator
  | frameStart
  | manchesterViolation
  | packetDelivered
  | halt (cause : BitVec 2)
  deriving DecidableEq, Repr

/-- The trace event's code (R309). -/
def TraceEvent.code : TraceEvent → Nat
  | .bit _ => 0x1
  | .preambleSeen => 0x2
  | .malformedTerminator => 0x3
  | .frameStart => 0x4
  | .manchesterViolation => 0x5
  | .packetDelivered => 0x6
  | .halt _ => 0x7

/-- One entry of the event history: an output event or a trace event. -/
inductive Event where
  | out (e : OutputEvent)
  | trace (t : TraceEvent)
  deriving DecidableEq, Repr

/-- The output event of an entry, if it is one. -/
def Event.output? : Event → Option OutputEvent
  | .out e => some e
  | .trace _ => none

/-- The trace event of an entry, if it is one. -/
def Event.trace? : Event → Option TraceEvent
  | .out _ => none
  | .trace t => some t

/-- A reset input: the configuration on the block's configuration inputs when reset is released, and
whether they were stable from before reset was asserted until then (R351). -/
structure ResetInput where
  config : Config
  stable : Bool
  deriving DecidableEq, Repr

/-- What the host presents at one moment (R311): any of a reset, an abort and a transaction. The abort
code is a cause code of R302, where `0` (`NONE`) is no abort (notes/assumptions/7.md). -/
structure Presented where
  reset : Option ResetInput
  abort : BitVec 2
  txn : Option Txn
  deriving DecidableEq, Repr

/-- The block's state `s` (R30). -/
structure State where
  /-- The configuration latched at reset (R31). -/
  cfg : Config
  /-- The in-phase filter: `xh_I`, `yh_I`, `y_I` (R34). -/
  filtI : FilterState
  /-- The quadrature filter: `xh_Q`, `yh_Q`, `y_Q` (R34). -/
  filtQ : FilterState
  /-- Input samples since the last decimated sample (R35). -/
  decimPhase : Nat
  /-- The envelope running average (R36). -/
  env : RunningAverage
  /-- The baseline running average (R36). -/
  base : RunningAverage
  /-- The raw bit of the previous decimated sample (R37). -/
  lastBit : Bool
  /-- The index of the next decimated sample, `W_CNT` bits (R37). -/
  sampleIdx : Nat
  /-- The sample index of the next bit decision, `W_CNT` bits (R37). -/
  nextDecision : Nat
  /-- The framing state (R38). -/
  fsmState : FsmState
  /-- The preamble transition counter (R38). -/
  transCnt : Nat
  /-- The terminator zero-run counter (R38). -/
  zeroCnt : Nat
  /-- The Manchester position parity: `false` at a data half, `true` at a check half (R38). -/
  parity : Bool
  /-- The previous bit decision the framing machine consumed (R38). -/
  prevBit : Bool
  /-- The data-bit shift register (R39). -/
  acc : BitVec 8
  /-- The data bits accumulated into `acc` (R39). -/
  bitCnt : Nat
  /-- The packet buffer (R39). -/
  pkt : Vector Byte pktCap
  /-- The packet fill count (R39). -/
  fill : Nat
  /-- The halt bit (R40). -/
  halted : Bool
  /-- The cause code of the halt (R40, R302). -/
  haltCause : BitVec 2
  /-- Model-only (R41): the refusal mark with its reason. -/
  refused : Option RefusalReason
  /-- Model-only (R41): output and trace events since reset, in the order they happened. -/
  history : List Event
  /-- The model's own: what the host presents, the next presentation first (notes/assumptions/6.md). -/
  port : List Presented
  /-- The model's own: how many values have been sent to taps; numbers the free bits of a NaN there
  (notes/assumptions/4.md). -/
  tapCount : Nat
  deriving DecidableEq, Repr

/-- `s.events` (R41): the output events emitted since reset. -/
def State.events (s : State) : List OutputEvent := s.history.filterMap Event.output?

/-- `s.trace` (R41): the trace events recorded since reset. -/
def State.traces (s : State) : List TraceEvent := s.history.filterMap Event.trace?

/-- Why the block cannot go on. -/
inductive Fault where
  /-- Raised by a transaction, and by the end of the host's input, while the block is halted: the block
  accepts nothing until reset and the run is a faulted one (R303, R371). Safe: nothing follows it. -/
  | halted (cause : BitVec 2)
  deriving DecidableEq, Repr

/-- Why the model gives an instruction no meaning. A refusal of R305 is not one of these: it marks
`State.refused` and the machine goes on. -/
inductive Refusal where
  /-- Raised by `exec` alone, for an instruction not modelled yet; no arm raises it. Safe. -/
  | notModelled (mnemonic : String)
  deriving DecidableEq, Repr

/-- A filter with empty history (R350). -/
def FilterState.initial (c : Config) : FilterState where
  xh := List.replicate c.nb (NUM.zero c.num)
  yh := List.replicate (c.na - 1) (NUM.zero c.num)
  y := NUM.zero c.num

/-- A running average of window `w` before any update (R350). -/
def RunningAverage.initial (d : NumDomain) (w : Nat) : RunningAverage where
  buf := List.replicate w (NUM.zero d)
  sum := NUM.zero d
  pos := 0
  count := 0

/-- Every register at its reset value under the configuration `c` (R350), with no refusal and nothing
presented. -/
def State.initial (c : Config) : State where
  cfg := c
  filtI := FilterState.initial c
  filtQ := FilterState.initial c
  decimPhase := 0
  env := RunningAverage.initial c.num c.wEnv
  base := RunningAverage.initial c.num c.wBase
  lastBit := false
  sampleIdx := 0
  nextDecision := 0
  fsmState := .seekPreamble
  transCnt := 0
  zeroCnt := 0
  parity := false
  prevBit := false
  acc := 0x00#8
  bitCnt := 0
  pkt := Vector.replicate pktCap 0x00#8
  fill := 0
  halted := false
  haltCause := 0#2
  refused := none
  history := []
  port := []
  tapCount := 0

/-- The machine right after a reset that latched the reference configuration (R350, R46;
notes/assumptions/1.md). -/
def State.reset : State := State.initial Config.reference

end Sys2Proof.Machine
end

