-- ==== Sys2Proof/Machine/Flags.lean ====
section
/-!
DEFINITION. The one-bit registers that act as flags, `last_bit`, `prev_bit` and `parity` (10_state.md R42),
and the tests they serve.
-/

namespace Sys2Proof.Machine

/-- The raw bit `e > m` (43_bit_slicer.md R220); a tie gives 0 (R225). -/
def rawBit (d : NumDomain) (e m : NUM) : Bool := NUM.gt d e m

/-- A transition: the raw bit differs from the previous decimated sample's (R221). -/
def isTransition (b lastBit : Bool) : Bool := b != lastBit

/-- `s.last_bit <- b` (R221). -/
def State.setLastBit (b : Bool) (s : State) : State := { s with lastBit := b }

/-- `s.prev_bit <- b` (44_framing.md R261). -/
def State.setPrevBit (b : Bool) (s : State) : State := { s with prevBit := b }

/-- `s.parity <- s.parity xor 1` (R260). -/
def State.flipParity (s : State) : State := { s with parity := !s.parity }

/-- The Manchester check of a check half: equal to the data half before it is a violation (R258, R259). -/
def manchesterViolation (b prevBit : Bool) : Bool := b == prevBit

end Sys2Proof.Machine
end

