-- ==== Sys2Proof/WellFormed.lean ====
section
/-!
DEFINITION. The checks on a transaction (30_encoding.md R115 check 4) and on a configuration
(10_state.md R31), each check of R31 under its own name.
-/

namespace Sys2Proof

/-- A well-formed transaction: a bypass pair is finite (R115 check 4). -/
def Instr.wellFormed : Instr → Bool
  | .rawSample _ _ => true
  | .cplxDecimated iv qv => finiteBits iv && finiteBits qv

/-- A constant the session may use: finite, and of the session's domain. -/
def Config.constantOk (c : Config) (v : NUM) : Bool := NUM.inDomain c.num v && v.finite

/-- `cfg_decim_pos`. -/
def Config.cfgDecimPos (c : Config) : Bool := decide (1 ≤ c.decim)
/-- `cfg_spb_pos`. -/
def Config.cfgSpbPos (c : Config) : Bool := decide (1 ≤ c.spb)
/-- `cfg_spb_fits`. -/
def Config.cfgSpbFits (c : Config) : Bool := decide (c.spb < 2 ^ c.wCnt)
/-- `cfg_min_pos`. -/
def Config.cfgMinPos (c : Config) : Bool := decide (1 ≤ c.minTrans)
/-- `cfg_mode_range`. -/
def Config.cfgModeRange (c : Config) : Bool := decide (c.debugMode ≤ 3)
/-- `cfg_num`: both domains of `NumDomain` meet R170, so the type leaves nothing to refuse. -/
def Config.cfgNum (c : Config) : Bool :=
  match c.num with
  | .binary32 => true
  | .exact => true
/-- `cfg_iq_finite`: 256 finite `NUM` values. -/
def Config.cfgIqFinite (c : Config) : Bool := decide (c.iqConv.length = 256) && c.iqConv.all c.constantOk
/-- `cfg_nb_pos`. -/
def Config.cfgNbPos (c : Config) : Bool := decide (1 ≤ c.nb)
/-- `cfg_b_finite`: `NB` coefficients, every one finite. -/
def Config.cfgBFinite (c : Config) : Bool := decide (c.b.length = c.nb) && c.b.all c.constantOk
/-- `cfg_na_pos`. -/
def Config.cfgNaPos (c : Config) : Bool := decide (1 ≤ c.na)
/-- `cfg_a_finite`: `NA - 1` coefficients `A[1..NA-1]`, every one finite. -/
def Config.cfgAFinite (c : Config) : Bool := decide (c.a.length = c.na - 1) && c.a.all c.constantOk
/-- `cfg_ra_mode`: both values of `RaMode` are legal, so the type leaves nothing to refuse. -/
def Config.cfgRaMode (c : Config) : Bool :=
  match c.raMode with
  | .zeroFilled => true
  | .partialWindow => true
/-- `cfg_wcnt`. -/
def Config.cfgWcnt (c : Config) : Bool := decide (2 ≤ c.wCnt)

/-- A well-formed configuration: every named check of R31 holds. -/
def Config.wellFormed (c : Config) : Bool :=
  c.cfgDecimPos && c.cfgSpbPos && c.cfgSpbFits && c.cfgMinPos && c.cfgModeRange && c.cfgNum && c.cfgIqFinite &&
    c.cfgNbPos && c.cfgBFinite && c.cfgNaPos && c.cfgAFinite && c.cfgRaMode && c.cfgWcnt

end Sys2Proof
end

