-- ==== Sys2Proof/Machine/Ops.lean ====
section
/-!
DEFINITION. The named operations on the state: the event primitives (00_scope.md R15), the refusal mark
(60_exceptions.md R305), the fatal abort (R303), which is what the block has for taking an exception, and
the reset that alone ends the halted state (R313, 70_reset_and_hazards.md R350 to R352). The block has no
addressable memory (20_memory.md R80); the named accesses are those to its internal arrays (R81).
-/

namespace Sys2Proof

/-- `a +w b`, addition modulo `2^W_CNT` (R12). -/
def Config.addW (c : Config) (a b : Nat) : Nat := (a + b) % 2 ^ c.wCnt

end Sys2Proof

namespace Sys2Proof.Machine

/-- Append to the event history. -/
def State.record (e : Event) (s : State) : State := { s with history := s.history ++ [e] }

/-- `emit E` (R15). -/
def State.emit (e : OutputEvent) (s : State) : State := s.record (.out e)

/-- `trace E` (R15). -/
def State.trace (t : TraceEvent) (s : State) : State := s.record (.trace t)

/-- A refusal (R305): the mark is set with its reason, and nothing else changes. -/
def State.markRefused (r : RefusalReason) (s : State) : State := { s with refused := some r }

/-- `ABORT(cause)` for a presented cause (R303): `3` is refused, the first cause is kept, and nothing but the
halt state changes. -/
def State.takeAbort (cause : BitVec 2) (s : State) : State :=
  if cause = 3#2 then s.markRefused .abortCauseReserved
  else if s.halted then s
  else { s with halted := true, haltCause := cause }.trace (.halt cause)

/-- `RESET` (R350): latch and check the configuration. A well-formed stable one starts a new session, which
keeps only the refusal mark and the model's own fields; any other is refused (R31, R305, I12). -/
def State.takeReset (r : ResetInput) (s : State) : State :=
  if r.stable && r.config.wellFormed then
    { State.initial r.config with refused := s.refused, port := s.port, tapCount := s.tapCount }
  else s.markRefused .cfgIllFormed

/-- The filter of a channel (R34). -/
def State.filter (c : Channel) (s : State) : FilterState :=
  match c with
  | .inPhase => s.filtI
  | .quadrature => s.filtQ

/-- Write the filter of a channel (R34). -/
def State.setFilter (c : Channel) (f : FilterState) (s : State) : State :=
  match c with
  | .inPhase => { s with filtI := f }
  | .quadrature => { s with filtQ := f }

/-- A running average (R36). -/
def State.average (r : Average) (s : State) : RunningAverage :=
  match r with
  | .env => s.env
  | .base => s.base

/-- Write a running average (R36). -/
def State.setAverage (r : Average) (a : RunningAverage) (s : State) : State :=
  match r with
  | .env => { s with env := a }
  | .base => { s with base := a }

/-- The window length `W_r` (R36). -/
def Average.window (c : Config) (r : Average) : Nat :=
  match r with
  | .env => c.wEnv
  | .base => c.wBase

/-- A NaN pattern made from free bits: the bits themselves where they are one. Every NaN pattern can
come out (I3). -/
def nanPattern (w : BitVec 32) : BitVec 32 := if nanBits w then w else 0x7FC00000#32

/-- The bits that leave the block when the `n`-th tap value is `v` (R308): a value's own bits, or for a
NaN some NaN pattern, free (I3; notes/assumptions/4.md). -/
def tapValue (d : NumDomain) (n : Nat) (v : NUM) : TapValue :=
  match d with
  | .binary32 =>
    match v.toF32 with
    | .val w => .binary32 (if nanBits w then nanPattern (Config.freeTapBits n) else w)
    | .nan => .binary32 (nanPattern (Config.freeTapBits n))
  | .exact => .exact v.toRat

/-- Send a pair to a tap (40_transactions.md R143): an output event that changes no block state. -/
def State.emitTap (mk : TapValue → TapValue → OutputEvent) (i q : NUM) (s : State) : State :=
  { s.emit (mk (tapValue s.cfg.num s.tapCount i) (tapValue s.cfg.num (s.tapCount + 1) q)) with
    tapCount := s.tapCount + 2 }

end Sys2Proof.Machine
end

