-- ==== Sys2Proof/Machine/Framing.lean ====
section
/-!
DEFINITION. The framing state machine, Manchester decoder and packet assembler (44_framing.md R250 to R263).
-/

namespace Sys2Proof.Machine

/-- `ENTER_RECEIVING` (R255). -/
def State.enterReceiving (s : State) : State :=
  { s with zeroCnt := 0, acc := 0x00#8, bitCnt := 0, fill := 0, parity := false,
           fsmState := .receiving }.trace .frameStart

/-- `DELIVER` (R263): the `PACKET` event carries a copy of the ten bytes (20_memory.md R97). -/
def State.deliver (s : State) : State :=
  { (s.emit (.packet s.pkt)).trace .packetDelivered with fsmState := .seekPreamble }

/-- `CLOSE_BYTE` (R262). -/
def State.closeByte (s : State) : State :=
  let t := { s with pkt := s.pkt.setIfInBounds s.fill s.acc, fill := s.fill + 1, bitCnt := 0 }
  if t.fill = pktCap then t.deliver else t

/-- One bit in `SeekPreamble` (R251, R252). -/
def State.seekPreambleStep (b : Bool) (s : State) : State :=
  let n := if b != s.prevBit then s.transCnt + 1 else 0
  if n = s.cfg.minTrans then
    { s with transCnt := 0, zeroCnt := 0, fsmState := .seekPreambleEnd }.trace .preambleSeen
  else { s with transCnt := n }

/-- One bit in `SeekPreambleEnd` (R253, R254). -/
def State.seekPreambleEndStep (b : Bool) (s : State) : State :=
  if b then { s with zeroCnt := 0, fsmState := .seekPreamble }.trace .malformedTerminator
  else if s.zeroCnt + 1 = termZeros then { s with zeroCnt := s.zeroCnt + 1 }.enterReceiving
  else { s with zeroCnt := s.zeroCnt + 1 }

/-- A data half in `Receiving` (R256): shift it in at the low end, and without `LAST_HALF_CHECK` close the
byte on its eighth bit. -/
def State.dataHalf (b : Bool) (s : State) : State :=
  let t := { s with acc := (s.acc <<< 1) ||| (if b then 1#8 else 0#8), bitCnt := s.bitCnt + 1 }
  if !t.cfg.lastHalfCheck && t.bitCnt == 8 then t.closeByte else t

/-- A check half in `Receiving` (R257 to R259): a violation aborts the packet; a valid half closes a byte
that waits for it. -/
def State.checkHalf (b : Bool) (s : State) : State :=
  if manchesterViolation b s.prevBit then
    { s with fsmState := .seekPreamble }.trace .manchesterViolation
  else if s.cfg.lastHalfCheck && s.bitCnt == 8 then s.closeByte
  else s

/-- One bit in `Receiving` (R256 to R260). -/
def State.receivingStep (b : Bool) (s : State) : State :=
  (if s.parity then s.checkHalf b else s.dataHalf b).flipParity

/-- `FSM_STEP(b)` (R250). -/
def State.fsmStep (b : Bool) (s : State) : State :=
  (match s.fsmState with
    | .seekPreamble => s.seekPreambleStep b
    | .seekPreambleEnd => s.seekPreambleEndStep b
    | .receiving => s.receivingStep b).setPrevBit b

end Sys2Proof.Machine
end

