-- ==== Sys2Proof/Machine/Slicer.lean ====
section
/-!
DEFINITION. The running averages and the bit slicer with self-recovering clock (43_bit_slicer.md R210 to
R229).
-/

namespace Sys2Proof.Machine

/-- `RA_UPDATE` on one running average of window `w` (R210): the average after the update, and the mean. -/
def RunningAverage.update (d : NumDomain) (m : RaMode) (w : Nat) (v : NUM) (r : RunningAverage) :
    RunningAverage × NUM :=
  let old := r.buf.getD r.pos (NUM.zero d)
  let sum := NUM.sub d (NUM.add d r.sum v) old
  let count := if r.count < w then r.count + 1 else r.count
  let divisor := match m with
    | .zeroFilled => w
    | .partialWindow => count
  ({ buf := r.buf.set r.pos v, sum := sum, pos := (r.pos + 1) % w, count := count },
    NUM.divNat d sum divisor)

/-- `RA_UPDATE(r, v)` (R210): the state after, and the mean. -/
def State.raUpdate (r : Average) (v : NUM) (s : State) : State × NUM :=
  let u := (s.average r).update s.cfg.num s.cfg.raMode (r.window s.cfg) v
  (s.setAverage r u.1, u.2)

/-- The two averages in cascade (R212, R220): the envelope of the power, the baseline of the envelope. The
state after, the envelope `e` and the baseline `m`. -/
def State.averagePower (p : NUM) (s : State) : State × NUM × NUM :=
  let e := s.raUpdate .env p
  let m := e.1.raUpdate .base e.2
  (m.1, e.2, m.2)

/-- Re-anchoring (R221): a transition puts the next decision `SPB div 2` samples ahead. Then
`s.last_bit <- b`. -/
def State.reanchor (b : Bool) (s : State) : State :=
  (if isTransition b s.lastBit then
    { s with nextDecision := s.cfg.addW s.sampleIdx (s.cfg.spb / 2) }
  else s).setLastBit b

/-- The decision test (R222): at the decision index, give the bit to the framing machine and move the next
decision on by `SPB`. -/
def State.takeDecision (b : Bool) (s : State) : State :=
  if s.sampleIdx = s.nextDecision then
    let t := (s.trace (.bit b)).fsmStep b
    { t with nextDecision := t.cfg.addW t.nextDecision t.cfg.spb }
  else s

/-- `s.sample_idx <- idx +w 1` (R222). -/
def State.advanceIndex (s : State) : State := { s with sampleIdx := s.cfg.addW s.sampleIdx 1 }

/-- `SLICE` once the raw bit is known (R220): re-anchor, decide, advance. -/
def State.sliceBit (b : Bool) (s : State) : State := ((s.reanchor b).takeDecision b).advanceIndex

/-- `SLICE(p)` (R220). -/
def State.slice (p : NUM) (s : State) : State :=
  let r := s.averagePower p
  r.1.sliceBit (rawBit s.cfg.num r.2.1 r.2.2)

end Sys2Proof.Machine
end

