-- ==== Sys2Proof/Machine/Magnitude.lean ====
section
/-!
DEFINITION. The magnitude calculator (42_magnitude.md R200) and the part of the pipeline that runs once per
decimated sample (40_transactions.md R144).
-/

namespace Sys2Proof.Machine

/-- `MAGNITUDE(i, q)` (R200): each product and the sum rounded on its own (D9). -/
def magnitude (d : NumDomain) (i q : NUM) : NUM := NUM.add d (NUM.mul d i i) (NUM.mul d q q)

/-- `DECIMATED_PATH(i, q)` (R144). -/
def State.decimatedPath (i q : NUM) (s : State) : State := s.slice (magnitude s.cfg.num i q)

end Sys2Proof.Machine
end

