-- ==== Sys2Proof/Machine/Filter.lean ====
section
/-!
DEFINITION. The decimating filter pair (41_filter_pair.md R172 to R185).
-/

namespace Sys2Proof.Machine

/-- The feed-forward sum, from `k = 0` up (R180, D9): `acc` plus each `lit(B[k]) * xh[k]` in turn. -/
def addTaps (d : NumDomain) (coeffs hist : List NUM) (acc : NUM) : NUM :=
  (coeffs.zip hist).foldl (fun a p => NUM.add d a (NUM.mul d (NUM.lit d p.1) p.2)) acc

/-- The feedback sum, from `k = 1` up (R180, D9): `acc` minus each `lit(A[k]) * yh[k]` in turn. -/
def subTaps (d : NumDomain) (coeffs hist : List NUM) (acc : NUM) : NUM :=
  (coeffs.zip hist).foldl (fun a p => NUM.sub d a (NUM.mul d (NUM.lit d p.1) p.2)) acc

/-- `FILTER_PUT` on one filter (R180): shift the input in, form the output from the new input history and the
old output history, shift the output in. -/
def FilterState.put (c : Config) (x : NUM) (f : FilterState) : FilterState :=
  let xh := (x :: f.xh).take c.nb
  let y := subTaps c.num c.a f.yh (addTaps c.num c.b xh (NUM.zero c.num))
  { xh := xh, yh := (y :: f.yh).take (c.na - 1), y := y }

/-- `FILTER_PUT(c, x)` (R180). -/
def State.filterPut (ch : Channel) (x : NUM) (s : State) : State :=
  s.setFilter ch ((s.filter ch).put s.cfg x)

/-- `FILTER_GET(c)` (R181). -/
def State.filterGet (ch : Channel) (s : State) : NUM := (s.filter ch).y

/-- What follows when the phase reaches `DECIM` (R182): get both outputs, tap them in mode 3, and run the
decimated path. -/
def State.decimatedSample (s : State) : State :=
  let yi := s.filterGet .inPhase
  let yq := s.filterGet .quadrature
  (if s.cfg.debugMode = 3 then s.emitTap .tapFilt yi yq else s).decimatedPath yi yq

/-- `DECIMATE()` (R182). -/
def State.decimate (s : State) : State :=
  if s.decimPhase + 1 = s.cfg.decim then { s with decimPhase := 0 }.decimatedSample
  else { s with decimPhase := s.decimPhase + 1 }

end Sys2Proof.Machine
end

