-- ==== Sys2Proof/Machine/Operands.lean ====
section
/-!
DEFINITION. The operands of the two transactions (30_encoding.md R114): raw bytes through the conversion
table (40_transactions.md R142), bypass values through `decode_NUM`; and which kinds a mode admits (R111).
-/

namespace Sys2Proof.Machine

/-- `IQ_CONV[b]` (20_memory.md R81): the byte indexes the table directly (R114). The configured constant is
read in the session's domain. -/
def iqConvAt (c : Config) (b : Byte) : NUM := NUM.lit c.num (c.iqConv.getD b.toNat (NUM.zero c.num))

/-- `IQ_CONVERT(ib, qb)` (R142). -/
def iqConvert (c : Config) (ib qb : Byte) : NUM × NUM := (iqConvAt c ib, iqConvAt c qb)

/-- `decode_NUM` of the session's `BYPASS_CODEC` and domain (R114). -/
def decodeNum (c : Config) (w : BitVec 32) : NUM := NUM.decode c.bypassCodec c.num w

/-- RAW_SAMPLE is admitted in debug modes 0, 1 and 3 (R111). -/
def rawAdmitted (c : Config) : Bool := c.debugMode == 0 || c.debugMode == 1 || c.debugMode == 3

/-- CPLX_DECIMATED is admitted in debug mode 2 (R111). -/
def cplxAdmitted (c : Config) : Bool := c.debugMode == 2

end Sys2Proof.Machine
end

