-- ==== Sys2Proof/Machine/Transactions.lean ====
section
/-!
DEFINITION. The two transactions (40_transactions.md R140, R141), with the refusals of 30_encoding.md R115
that depend on the mode or on the payload's value, and the halted state in which nothing runs (R303).
-/

namespace Sys2Proof.Machine

/-- What a presented transaction comes to: while halted no transaction has a step (R303), which is a fault
(R371); otherwise a refusal marks the state and changes nothing else (R305), and an accepted transaction
runs to completion (20_memory.md R85). -/
def accept (refusal : Option RefusalReason) (run : State → State) (s : State) :
    Host.Outcome State Fault Refusal :=
  if s.halted then .fault (.halted s.haltCause)
  else match refusal with
    | some r => .next (s.markRefused r)
    | none => .next (run s)

/-- The refusal of a RAW_SAMPLE whose encoding is legal (R115 check 2). -/
def rawRefusal (c : Config) : Option RefusalReason :=
  if rawAdmitted c then none else some .kindNotInMode

/-- The refusal of a CPLX_DECIMATED (R115 checks 2 and 4, in that order). -/
def cplxRefusal (c : Config) (iv qv : BitVec 32) : Option RefusalReason :=
  if !cplxAdmitted c then some .kindNotInMode
  else if !(finiteBits iv && finiteBits qv) then some .nonfinitePayload
  else none

/-- RAW_SAMPLE after acceptance (R140): convert, tap in mode 1, put I then Q, decimate. -/
def State.rawSample (ib qb : Byte) (s : State) : State :=
  let x := iqConvert s.cfg ib qb
  let t := if s.cfg.debugMode = 1 then s.emitTap .tapConv x.1 x.2 else s
  ((t.filterPut .inPhase x.1).filterPut .quadrature x.2).decimate

/-- CPLX_DECIMATED after acceptance (R141): the decoded pair goes straight to the decimated path. -/
def State.cplxDecimated (iv qv : BitVec 32) (s : State) : State :=
  s.decimatedPath (decodeNum s.cfg iv) (decodeNum s.cfg qv)

/-- RAW_SAMPLE (R140). -/
def execRawSample (ib qb : Byte) (s : State) : Host.Outcome State Fault Refusal :=
  accept (rawRefusal s.cfg) (State.rawSample ib qb) s

/-- CPLX_DECIMATED (R141). -/
def execCplxDecimated (iv qv : BitVec 32) (s : State) : Host.Outcome State Fault Refusal :=
  accept (cplxRefusal s.cfg iv qv) (State.cplxDecimated iv qv) s

/-- The refusal of a word the decoder rejects, in R115's order: a reserved kind, then a RAW_SAMPLE kind not
admitted in the mode, then its reserved bits. -/
def wordRefusal (c : Config) (r : RefusalReason) : RefusalReason :=
  if r = .reservedBits && !rawAdmitted c then .kindNotInMode else r

/-- A word the decoder rejects (R115). -/
def rejectWord (r : RefusalReason) (s : State) : Host.Outcome State Fault Refusal :=
  accept (some (wordRefusal s.cfg r)) id s

end Sys2Proof.Machine
end

