-- ==== Sys2Proof/Machine/Dispatch.lean ====
section
/-!
DEFINITION. The meaning of each transaction: one arm per constructor of `Instr`.
-/

namespace Sys2Proof.Machine

def exec (i : Instr) (s : State) : Host.Outcome State Fault Refusal :=
  match i with
  | .rawSample ib qb => Sys2Proof.Machine.execRawSample ib qb s
  | .cplxDecimated iv qv => Sys2Proof.Machine.execCplxDecimated iv qv s

end Sys2Proof.Machine
end

