-- ==== Sys2Proof/Machine/Input.lean ====
section
/-!
DEFINITION. The input port: how the presentations the host makes are taken one input at a time, reset before
abort before transaction (60_exceptions.md R311).
-/

namespace Sys2Proof.Machine

/-- Is nothing presented? -/
def Presented.isEmpty (p : Presented) : Bool := p.reset.isNone && p.abort == 0#2 && p.txn.isNone

/-- A transaction presented alone. -/
def Presented.ofTxn (T : Txn) : Presented where
  reset := none
  abort := 0#2
  txn := some T

/-- What is left of a presentation goes back to the front of the port; an empty one is dropped. -/
def Presented.returnTo (p : Presented) (rest : List Presented) : List Presented :=
  if p.isEmpty then rest else p :: rest

/-- The input that is taken next (R311). -/
inductive Input where
  /-- The host presents nothing more. -/
  | none
  | reset (r : ResetInput)
  | abort (cause : BitVec 2)
  | txn (T : Txn)
  deriving DecidableEq, Repr

/-- The input taken from one presentation: reset first, then abort, then the transaction (R311). -/
def Presented.first (p : Presented) : Input :=
  match p.reset with
  | some r => .reset r
  | Option.none =>
    if p.abort = 0#2 then
      match p.txn with
      | some T => .txn T
      | Option.none => .none
    else .abort p.abort

/-- The presentation without the input that was taken. -/
def Presented.remaining (p : Presented) : Presented :=
  match p.reset with
  | some _ => { p with reset := Option.none }
  | Option.none =>
    if p.abort = 0#2 then { p with txn := Option.none } else { p with abort := 0#2 }

/-- The next input on the port. -/
def State.nextInput (s : State) : Input :=
  match s.port with
  | [] => .none
  | p :: _ => p.first

/-- The state once the next input has been taken off the port. -/
def State.consume (s : State) : State :=
  match s.port with
  | [] => s
  | p :: rest => { s with port := p.remaining.returnTo rest }

/-- The debug mode that admits a word's kind, nearest to the one configured (R111). Only
`State.withFetchWord` uses it, for the host's selection of the input source. -/
def modeFor (c : Config) (T : Txn) : Nat :=
  if T.extractLsb' 64 2 = 0b00#2 && !rawAdmitted c then 0
  else if T.extractLsb' 64 2 = 0b01#2 && !cplxAdmitted c then 2
  else c.debugMode

end Sys2Proof.Machine
end

