-- ==== Sys2Proof/Machine/Step.lean ====
section
/-!
DEFINITION. One step: the block takes the next input the host presents (20_memory.md R85, 60_exceptions.md
R311). It runs no program: the order of inputs on its port is the sequencing (10_state.md R33).
-/

namespace Sys2Proof.Machine

/-- A transaction word taken from the port: decoded and run, or rejected (30_encoding.md R115). -/
def runWord (T : Txn) (s : State) : Host.Outcome State Fault Refusal :=
  match decode T with
  | .ok i => exec i s
  | .error r => rejectWord r s

/-- Nothing is presented: the block holds its state (R321). When the host presents nothing more the run
ends, and a run that ends halted is a faulted one (R371, R303). -/
def idle (s : State) : Host.Outcome State Fault Refusal :=
  if s.halted && s.port.isEmpty then .fault (.halted s.haltCause) else .next s

/-- One step of the block. -/
def step (s : State) : Host.Outcome State Fault Refusal :=
  match s.nextInput with
  | .none => idle s.consume
  | .reset r => .next (s.consume.takeReset r)
  | .abort cause => .next (s.consume.takeAbort cause)
  | .txn T => runWord T s.consume

/-- The state with one transaction word presented next. The configured debug mode selects the input source
(R111, R143): it is set to one that admits the word's kind, where it does not, so that the very next step
accepts the word (notes/assumptions/2.md). -/
def State.withFetchWord (s : State) (nbits w : Nat) : State :=
  let T : Txn := BitVec.ofNat 66 (w % 2 ^ nbits)
  { s with port := Presented.ofTxn T :: s.port, cfg := { s.cfg with debugMode := modeFor s.cfg T } }

end Sys2Proof.Machine
end

