-- ==== Sys2Proof/Machine/Stream.lean ====
section
/-!
DEFINITION. How a byte stream and a sequence of symbol halves become transactions: the byte order of
20_memory.md R84, R86 and R88, the Manchester convention of 44_framing.md R264, and the spec's notation for
transactions (30_encoding.md R119, R120). The host lays transactions on the port so.
-/

namespace Sys2Proof.Machine

/-- The raw sample words of a byte stream (R84): the low, in-phase byte of each sample comes first. A
trailing single byte is never delivered (R88). -/
def rawWords : List Byte → List Txn
  | ib :: qb :: rest => encode (.rawSample ib qb) :: rawWords rest
  | _ => []

/-- Four stream bytes as one value, least significant byte first (R86). -/
def littleEndian (b0 b1 b2 b3 : Byte) : BitVec 32 := b3 ++ b2 ++ b1 ++ b0

/-- The bypass words of a byte stream (R86): eight bytes a pair, the in-phase value first. A trailing partial
pair is never delivered (R88). -/
def bypassWords : List Byte → List Txn
  | i0 :: i1 :: i2 :: i3 :: q0 :: q1 :: q2 :: q3 :: rest =>
    encode (.cplxDecimated (littleEndian i0 i1 i2 i3) (littleEndian q0 q1 q2 q3)) :: bypassWords rest
  | _ => []

/-- The two symbol halves of a data bit, data half first (R264). -/
def manchesterPair (d : Bool) : List Bool := [d, !d]

/-- The bits of a byte, most significant first (20_memory.md R87). -/
def bitsMsbFirst (x : Byte) : List Bool :=
  [x.getLsbD 7, x.getLsbD 6, x.getLsbD 5, x.getLsbD 4, x.getLsbD 3, x.getLsbD 2, x.getLsbD 1, x.getLsbD 0]

/-- `MAN bytes` (R120, R264): the Manchester halves of a byte string. -/
def manchester (bytes : List Byte) : List Bool := bytes.flatMap fun x => (bitsMsbFirst x).flatMap manchesterPair

/-- `REP n, X` (R120). -/
def rep (n : Nat) (i : Instr) : List Instr := List.replicate n i

/-- `OOK h, k, a` (R120), with the amplitude as a binary32 pattern: `k` pairs for each half. -/
def ook (halves : List Bool) (k : Nat) (amplitude : BitVec 32) : List Instr :=
  halves.flatMap fun h => rep k (.cplxDecimated (if h then amplitude else 0#32) 0#32)

end Sys2Proof.Machine
end

