-- ==== Sys2Proof/Safety.lean ====
section
/-!
DEFINITION. What counts as a good state and a successful run, in the terms claims use: the invariants of
10_state.md R44 and R45, the end of a run (70_reset_and_hazards.md R371), the frames of the pipeline's
stages, and the refusal checks of 30_encoding.md R115 as that rule lists them.
-/

namespace Sys2Proof.Machine

/-- A filter of the shape the configuration fixes, with values of the session's domain (R34, R185). -/
structure FilterState.Fits (c : Config) (f : FilterState) : Prop where
  xh_length : f.xh.length = c.nb
  yh_length : f.yh.length = c.na - 1
  xh_domain : ∀ v ∈ f.xh, NUM.inDomain c.num v = true
  yh_domain : ∀ v ∈ f.yh, NUM.inDomain c.num v = true
  y_domain : NUM.inDomain c.num f.y = true

/-- A running average of window `w` with values of the session's domain (R36). -/
structure RunningAverage.Fits (d : NumDomain) (w : Nat) (r : RunningAverage) : Prop where
  buf_length : r.buf.length = w
  buf_domain : ∀ v ∈ r.buf, NUM.inDomain d v = true
  sum_domain : NUM.inDomain d r.sum = true
  pos_lt : r.pos < w
  count_le : r.count ≤ w

/-- How many samples ahead the next decision is: `(next_decision - sample_idx) mod 2^W_CNT` (R45 (a)). -/
def State.decisionDistance (s : State) : Nat :=
  (s.nextDecision + 2 ^ s.cfg.wCnt - s.sampleIdx) % 2 ^ s.cfg.wCnt

/-- The slicer registers hold `W_CNT` bits, and the next decision is less than one bit period ahead
(R37, R45 (a)). -/
structure State.SlicerInv (s : State) : Prop where
  idx_lt : s.sampleIdx < 2 ^ s.cfg.wCnt
  next_lt : s.nextDecision < 2 ^ s.cfg.wCnt
  distance_lt : s.decisionDistance < s.cfg.spb

/-- The framing and packet registers keep their ranges (R38, R39, R45 (b) to (e), R259). -/
structure State.FramingInv (s : State) : Prop where
  trans_lt : s.transCnt < s.cfg.minTrans
  trans_zero : s.fsmState ≠ .seekPreamble → s.transCnt = 0
  zero_le : s.zeroCnt ≤ 3
  zero_zero : s.fsmState ≠ .seekPreambleEnd → s.zeroCnt = 0
  bit_le : s.bitCnt ≤ 8
  bit_check : s.bitCnt = 8 → s.cfg.lastHalfCheck = true
  bit_data : s.fsmState = .receiving → s.parity = false → s.bitCnt ≤ 7
  bit_half : s.fsmState = .receiving → s.parity = true →
    s.bitCnt ≠ 0 ∨ (s.cfg.lastHalfCheck = false ∧ s.fill ≠ 0)
  fill_le : s.fill ≤ pktCap
  fill_receiving : s.fsmState = .receiving → s.fill ≤ 9

/-- The halt cause is `NONE` exactly when the block is not halted, and never the reserved code (R40, R302). -/
structure State.HaltInv (s : State) : Prop where
  none_iff : s.haltCause = 0#2 ↔ s.halted = false
  not_reserved : s.haltCause ≠ 3#2

/-- A good state: everything R34 to R40, R44 and R45 say holds between transactions. -/
structure State.Inv (s : State) : Prop where
  cfg_ok : s.cfg.wellFormed = true
  filtI_fits : s.filtI.Fits s.cfg
  filtQ_fits : s.filtQ.Fits s.cfg
  phase_lt : s.decimPhase < s.cfg.decim
  env_fits : s.env.Fits s.cfg.num s.cfg.wEnv
  base_fits : s.base.Fits s.cfg.num s.cfg.wBase
  slicer : s.SlicerInv
  framing : s.FramingInv
  halt : s.HaltInv

/-- Some number `n` of decimated samples since reset accounts for the sample index and for the slot and the
count of both running averages (R45 (f), R36, R37). -/
def State.SampleClock (s : State) : Prop :=
  ∃ n : Nat, s.sampleIdx = n % 2 ^ s.cfg.wCnt ∧ s.env.count = min n s.cfg.wEnv ∧
    s.base.count = min n s.cfg.wBase ∧ s.env.pos = n % s.cfg.wEnv ∧ s.base.pos = n % s.cfg.wBase

/-- A run that ended well (R371): the host presents nothing more, nothing was refused, the block is not
halted. -/
def State.runSucceeded (s : State) : Bool := s.port.isEmpty && s.refused.isNone && !s.halted

/-- The observation of a run (R371). -/
def State.observation (s : State) : List OutputEvent := s.events

/-- The packets among output events, in order (60_exceptions.md R308). -/
def packetsOf (l : List OutputEvent) : List (Vector Byte pktCap) :=
  l.filterMap fun e =>
    match e with
    | .packet p => some p
    | .tapConv _ _ | .tapFilt _ _ => none

/-- `s` with the framing and packet registers and the history of `t`: what `FSM_STEP` may write (R250). -/
def State.withFraming (s t : State) : State :=
  { s with fsmState := t.fsmState, transCnt := t.transCnt, zeroCnt := t.zeroCnt, parity := t.parity,
           prevBit := t.prevBit, acc := t.acc, bitCnt := t.bitCnt, pkt := t.pkt, fill := t.fill,
           history := t.history }

/-- `s` with what the decimated path may write taken from `t` (R144): both running averages, the slicer
registers, the framing and packet registers, the history. -/
def State.withDecimated (s t : State) : State :=
  { s.withFraming t with env := t.env, base := t.base, lastBit := t.lastBit, sampleIdx := t.sampleIdx,
                         nextDecision := t.nextDecision }

/-- `s` with what a RAW_SAMPLE may write taken from `t` (R140): besides, both filters, the decimation phase
and the model's tap counter. -/
def State.withRaw (s t : State) : State :=
  { s.withDecimated t with filtI := t.filtI, filtQ := t.filtQ, decimPhase := t.decimPhase,
                           tapCount := t.tapCount }

/-- The first of R115's four checks that applies to a word, in that rule's order, read off the word's bits. -/
def firstRefusal (c : Config) (T : Txn) : Option RefusalReason :=
  let kind := T.extractLsb' 64 2
  if kind = 0b10#2 ∨ kind = 0b11#2 then some .reservedKind
  else if ¬((kind = 0b00#2 ∧ (c.debugMode = 0 ∨ c.debugMode = 1 ∨ c.debugMode = 3)) ∨
      (kind = 0b01#2 ∧ c.debugMode = 2)) then some .kindNotInMode
  else if kind = 0b00#2 ∧ T.extractLsb' 16 48 ≠ 0#48 then some .reservedBits
  else if kind = 0b01#2 ∧ (T.extractLsb' 23 8 = 0xFF#8 ∨ T.extractLsb' 55 8 = 0xFF#8) then
    some .nonfinitePayload
  else none

/-- The bit decisions among trace events (43_bit_slicer.md R229). -/
def decidedBits (l : List TraceEvent) : List Bool :=
  l.filterMap fun t =>
    match t with
    | .bit b => some b
    | _ => none

/-- Feed a list of bits to the framing machine, one `FSM_STEP` each (R250). -/
def State.fsmRun (bits : List Bool) (s : State) : State := bits.foldl (fun t b => t.fsmStep b) s

/-- The index of the next decision once a raw bit has re-anchored the clock (R221). -/
def State.anchor (b : Bool) (s : State) : Nat :=
  if b = s.lastBit then s.nextDecision else (s.sampleIdx + s.cfg.spb / 2) % 2 ^ s.cfg.wCnt

/-- What one decimated sample of power `p` does to a state (R144, R210, R212, R220 to R222): `t` is the state
after it. The framing machine takes the raw bit, after the `BIT` trace event, exactly when the sample is the
decision sample; otherwise its registers and the history stay. Everything else is unchanged. -/
structure State.DecimatedEffect (p : NUM) (s t : State) : Prop where
  env_eq : t.env = (s.env.update s.cfg.num s.cfg.raMode s.cfg.spb p).1
  base_eq : t.base = (s.base.update s.cfg.num s.cfg.raMode (8 * s.cfg.spb)
    (s.env.update s.cfg.num s.cfg.raMode s.cfg.spb p).2).1
  bit_eq : t.lastBit = NUM.gt s.cfg.num (s.env.update s.cfg.num s.cfg.raMode s.cfg.spb p).2
    (s.base.update s.cfg.num s.cfg.raMode (8 * s.cfg.spb)
      (s.env.update s.cfg.num s.cfg.raMode s.cfg.spb p).2).2
  idx_eq : t.sampleIdx = (s.sampleIdx + 1) % 2 ^ s.cfg.wCnt
  next_eq : t.nextDecision =
    if s.sampleIdx = s.anchor t.lastBit then (s.anchor t.lastBit + s.cfg.spb) % 2 ^ s.cfg.wCnt
    else s.anchor t.lastBit
  decided : s.sampleIdx = s.anchor t.lastBit →
    s.withFraming t = s.withFraming ((s.trace (.bit t.lastBit)).fsmStep t.lastBit)
  undecided : s.sampleIdx ≠ s.anchor t.lastBit → s.withFraming t = s
  frame : t = s.withDecimated t

/-- The events one `FSM_STEP` may add to the history (R310): none, one framing event, or a delivered packet. -/
inductive FramingEvents : List Event → Prop where
  | none : FramingEvents []
  | preambleSeen : FramingEvents [.trace .preambleSeen]
  | malformedTerminator : FramingEvents [.trace .malformedTerminator]
  | frameStart : FramingEvents [.trace .frameStart]
  | manchesterViolation : FramingEvents [.trace .manchesterViolation]
  | packet (p : Vector Byte pktCap) : FramingEvents [.out (.packet p), .trace .packetDelivered]

end Sys2Proof.Machine
end

