-- ==== Sys2Proof/Certificates/Slice0/Obligations.lean ====
section
/-!
DEFINITION. The statements for the provers, from the spec's numbered rules. Each docstring names the rule it
formalises.
-/

open Sys2Proof Sys2Proof.Machine

/-! ## Encoding -/

/-- R112, R113, R121: words written out from the formats decode to the transactions they stand for. -/
def Obligations.WrittenWordsDecode : Prop :=
  decode 0x00000000000008080#66 = .ok (.rawSample 0x80#8 0x80#8) ∧
  decode 0x000000000000000FF#66 = .ok (.rawSample 0xFF#8 0x00#8) ∧
  decode 0x0000000000000FF00#66 = .ok (.rawSample 0x00#8 0xFF#8) ∧
  decode 0x10000000000000000#66 = .ok (.cplxDecimated 0x00000000#32 0x00000000#32) ∧
  decode 0x1000000003F800000#66 = .ok (.cplxDecimated 0x3F800000#32 0x00000000#32) ∧
  decode 0x13F80000000000000#66 = .ok (.cplxDecimated 0x00000000#32 0x3F800000#32) ∧
  decode 0x13F0000003F000000#66 = .ok (.cplxDecimated 0x3F000000#32 0x3F000000#32)

/-- R112, R113: the decoder reads back every well-formed transaction that the encoder writes, with every
operand at every value. -/
def Obligations.DecodeReadsBackEveryEncoding : Prop :=
  ∀ i : Instr, i.wellFormed = true → decode (encode i) = .ok i ∧ decodeTableWord 72 (encode i).toNat = some i

/-- R112, R113: each transaction has one word only. -/
def Obligations.DecodedWordIsTheEncoding : Prop :=
  ∀ (T : Txn) (i : Instr), decode T = .ok i → encode i = T

/-- R116, R117: each opcode row selects its transaction, with its fields, by match and mask, and every word that
matches no row is rejected: a reserved kind, or a raw sample whose reserved bits are not zero. -/
def Obligations.OpcodeRowsSelectTransactions : Prop :=
  ∀ T : Txn,
    (decode T = .ok (.rawSample (T.extractLsb' 0 8) (T.extractLsb' 8 8)) ↔ T &&& 0x3FFFFFFFFFFFF0000#66 = 0#66) ∧
    (decode T = .ok (.cplxDecimated (T.extractLsb' 0 32) (T.extractLsb' 32 32)) ↔
      T &&& 0x30000000000000000#66 = 0x10000000000000000#66) ∧
    (decode T = .error .reservedKind ↔ T &&& 0x20000000000000000#66 = 0x20000000000000000#66) ∧
    (decode T = .error .reservedBits ↔
      T &&& 0x30000000000000000#66 = 0#66 ∧ T &&& 0x0FFFFFFFFFFFF0000#66 ≠ 0#66)

/-- R115: on a block that is not halted, the first check that applies names the reason and nothing but the
refusal mark changes; a word to which none applies decodes to a well-formed transaction, which runs. That a refusal
is a next state, and that its reason replaces one that stands, is the model's choice (notes/assumptions/8.md). -/
def Obligations.RefusalsFollowTheCheckOrder : Prop :=
  ∀ (s : State) (T : Txn), s.halted = false →
    (∀ r, firstRefusal s.cfg T = some r → runWord T s = .next { s with refused := some r }) ∧
    (firstRefusal s.cfg T = none →
      ∃ i, decode T = .ok i ∧ i.wellFormed = true ∧ runWord T s = exec i s ∧
        ∃ t, exec i s = .next t ∧ t.refused = s.refused)

/-! ## Inputs and steps -/

/-- R85, R110: a step takes the presented word, decodes it and runs that transaction. -/
def Obligations.StepRunsTheDecodedTransaction : Prop :=
  ∀ (s : State) (T : Txn) (rest : List Presented) (i : Instr),
    s.port = { reset := none, abort := 0#2, txn := some T } :: rest → decode T = .ok i →
    i.wellFormed = true → step s = exec i { s with port := rest }

/-- R311: of inputs presented at once reset is taken first, then the abort, then the transaction; a
transaction presented with an abort never runs, and one presented with a reset runs in the new session. One input a
step and what stays on the port are the model's choice (notes/assumptions/6.md, 20.md), and so is the fault of a
transaction presented while halted (notes/assumptions/10.md). -/
def Obligations.InputsAreTakenInPriorityOrder : Prop :=
  (∀ (s : State) (p : Presented) (rest : List Presented), s.port = p :: rest →
    (∀ r, p.reset = some r →
      step s = .next (State.takeReset r
        { s with port := Presented.returnTo { p with reset := none } rest })) ∧
    (p.reset = none → p.abort ≠ 0#2 →
      step s = .next (State.takeAbort p.abort
        { s with port := Presented.returnTo { p with abort := 0#2 } rest })) ∧
    (∀ T, p.reset = none → p.abort = 0#2 → p.txn = some T →
      step s = runWord T { s with port := rest })) ∧
  (∀ (s : State) (cause : BitVec 2) (T : Txn) (rest : List Presented), cause = 1#2 ∨ cause = 2#2 →
    s.halted = false → s.port = { reset := none, abort := cause, txn := some T } :: rest →
    ∃ t, step s = .next t ∧ t.halted = true ∧ step t = .fault (.halted cause)) ∧
  (∀ (s : State) (c : Config) (T : Txn) (rest : List Presented), c.wellFormed = true →
    s.port = { reset := some ⟨c, true⟩, abort := 0#2, txn := some T } :: rest →
    ∃ t, step s = .next t ∧ t.cfg = c ∧ t.history = [] ∧ step t = runWord T { t with port := rest })

/-- R303, R371: a halted block runs no transaction, whatever the word, and a run that ends halted is a
faulted one. That the step of a presented transaction is a fault, and that the end of the input is one, is the
model's reading of "treats the halted state as a fault" (notes/assumptions/10.md). -/
def Obligations.HaltedBlockRunsNothing : Prop :=
  ∀ s : State, s.halted = true →
    (∀ i : Instr, exec i s = .fault (.halted s.haltCause)) ∧
    (∀ T : Txn, runWord T s = .fault (.halted s.haltCause)) ∧
    (s.port = [] → step s = .fault (.halted s.haltCause))

/-- R321: a block that is not halted holds its state while nothing is presented. The port is the model's own
(notes/assumptions/6.md). -/
def Obligations.IdleBlockHoldsItsState : Prop :=
  ∀ s : State, s.halted = false → s.port = [] → step s = .next s

/-- R303: an abort with cause 1 or 2 halts the block, changes nothing but the halt state and records the trace
event `HALT`; while halted it changes nothing; cause 3 is refused. That the refusal is a next state, and that its
reason replaces one that stands, is the model's choice (notes/assumptions/8.md). -/
def Obligations.AbortHaltsTheBlock : Prop :=
  ∀ (s : State) (cause : BitVec 2) (rest : List Presented),
    s.port = { reset := none, abort := cause, txn := none } :: rest →
    (cause = 3#2 → step s = .next { s with port := rest, refused := some .abortCauseReserved }) ∧
    (cause = 1#2 ∨ cause = 2#2 → s.halted = true → step s = .next { s with port := rest }) ∧
    (cause = 1#2 ∨ cause = 2#2 → s.halted = false →
      step s = .next { s with port := rest, halted := true, haltCause := cause,
                              history := s.history ++ [.trace (.halt cause)] })

/-- R350: from any state, halted or not, a reset with a well-formed configuration gives every register its reset
value, empties the event history, and leaves the refusal mark. What it leaves on the port, the model's own field, is
the model's choice (notes/assumptions/11.md). -/
def Obligations.ResetGivesEveryRegisterItsValue : Prop :=
  ∀ (s : State) (c : Config) (rest : List Presented), c.wellFormed = true →
    s.port = { reset := some ⟨c, true⟩, abort := 0#2, txn := none } :: rest →
    ∃ t, step s = .next t ∧ t.cfg = c ∧
      (∀ f, f = t.filtI ∨ f = t.filtQ →
        f.xh = List.replicate c.nb (NUM.zero c.num) ∧
        f.yh = List.replicate (c.na - 1) (NUM.zero c.num) ∧ f.y = NUM.zero c.num) ∧
      t.decimPhase = 0 ∧
      t.env.buf = List.replicate c.spb (NUM.zero c.num) ∧
      t.base.buf = List.replicate (8 * c.spb) (NUM.zero c.num) ∧
      (∀ r, r = t.env ∨ r = t.base → r.sum = NUM.zero c.num ∧ r.pos = 0 ∧ r.count = 0) ∧
      t.lastBit = false ∧ t.sampleIdx = 0 ∧ t.nextDecision = 0 ∧
      t.fsmState.code = 0b00#2 ∧ t.transCnt = 0 ∧ t.zeroCnt = 0 ∧ t.parity = false ∧ t.prevBit = false ∧
      t.acc = 0x00#8 ∧ t.bitCnt = 0 ∧ (∀ k, k < 10 → t.pkt[k]? = some 0x00#8) ∧ t.fill = 0 ∧
      t.halted = false ∧ t.haltCause = 0#2 ∧
      t.events = [] ∧ t.traces = [] ∧ t.refused = s.refused ∧ t.port = rest

/-- R31, R305, R351: a reset whose configuration fails a check, or did not hold still, is refused and changes
no register. That the old session goes on after it is the model's reading (notes/assumptions/9.md); that the reason
replaces one that stands is its choice (notes/assumptions/8.md). -/
def Obligations.IllFormedResetIsRefused : Prop :=
  ∀ (s : State) (r : ResetInput) (rest : List Presented),
    r.stable = false ∨ r.config.wellFormed = false →
    s.port = { reset := some r, abort := 0#2, txn := none } :: rest →
    step s = .next { s with port := rest, refused := some .cfgIllFormed }

/-- R313, R352: only reset leaves the halted state. A step of a halted block that takes no reset changes nothing
but what is left on the port and the refusal mark. -/
def Obligations.OnlyResetLeavesTheHaltedState : Prop :=
  ∀ s t : State, s.halted = true → (∀ r, s.nextInput ≠ .reset r) → step s = .next t →
    t = { s with port := t.port, refused := t.refused }

/-- R305: the refusal mark, once set, is never cleared, not even by reset. -/
def Obligations.RefusalMarkIsNeverCleared : Prop :=
  ∀ s t : State, step s = .next t → s.refused ≠ none → t.refused ≠ none

/-- R31, R351: no transaction and no abort writes the configuration. -/
def Obligations.ConfigurationChangesOnlyAtReset : Prop :=
  ∀ s t : State, (∀ r, s.nextInput ≠ .reset r) → step s = .next t → t.cfg = s.cfg

/-! ## The two transactions -/

/-- R140, R180, R182: in a mode that admits it, a RAW_SAMPLE before the `DECIM`-th of its group runs the two
filters and the phase, taps the converted pair in mode 1, and changes nothing else. `tapCount`, and the numbering of
the tap values by it, are the model's choice (notes/assumptions/4.md). -/
def Obligations.RawSampleBetweenDecimatedSamples : Prop :=
  ∀ (s : State) (ib qb : Byte), s.halted = false →
    s.cfg.debugMode = 0 ∨ s.cfg.debugMode = 1 ∨ s.cfg.debugMode = 3 →
    s.decimPhase + 1 < s.cfg.decim →
    ∃ t, exec (.rawSample ib qb) s = .next t ∧
      t.filtI = s.filtI.put s.cfg (iqConvAt s.cfg ib) ∧ t.filtQ = s.filtQ.put s.cfg (iqConvAt s.cfg qb) ∧
      t.decimPhase = s.decimPhase + 1 ∧
      (s.cfg.debugMode = 1 →
        t.tapCount = s.tapCount + 2 ∧
        t.history = s.history ++ [.out (.tapConv (tapValue s.cfg.num s.tapCount (iqConvAt s.cfg ib))
          (tapValue s.cfg.num (s.tapCount + 1) (iqConvAt s.cfg qb)))]) ∧
      (s.cfg.debugMode ≠ 1 → t.tapCount = s.tapCount ∧ t.history = s.history) ∧
      t = { s with filtI := t.filtI, filtQ := t.filtQ, decimPhase := t.decimPhase,
                   tapCount := t.tapCount, history := t.history }

/-- R140, R182, R144: the RAW_SAMPLE that completes a group runs the filters, clears the phase, taps the pair its
mode taps, and has the effect of one decimated sample whose power is that of the filters' outputs. `tapCount`, and
the numbering of the tap values by it, are the model's choice (notes/assumptions/4.md). -/
def Obligations.RawSampleCompletingADecimatedSample : Prop :=
  ∀ (s : State) (ib qb : Byte), s.halted = false →
    s.cfg.debugMode = 0 ∨ s.cfg.debugMode = 1 ∨ s.cfg.debugMode = 3 →
    s.decimPhase + 1 = s.cfg.decim →
    let fI := s.filtI.put s.cfg (iqConvAt s.cfg ib)
    let fQ := s.filtQ.put s.cfg (iqConvAt s.cfg qb)
    ∃ u t, exec (.rawSample ib qb) s = .next t ∧
      u = { s with filtI := fI, filtQ := fQ, decimPhase := 0, tapCount := u.tapCount, history := u.history } ∧
      (s.cfg.debugMode = 0 → u.tapCount = s.tapCount ∧ u.history = s.history) ∧
      (s.cfg.debugMode = 1 → u.tapCount = s.tapCount + 2 ∧
        u.history = s.history ++ [.out (.tapConv (tapValue s.cfg.num s.tapCount (iqConvAt s.cfg ib))
          (tapValue s.cfg.num (s.tapCount + 1) (iqConvAt s.cfg qb)))]) ∧
      (s.cfg.debugMode = 3 → u.tapCount = s.tapCount + 2 ∧
        u.history = s.history ++ [.out (.tapFilt (tapValue s.cfg.num s.tapCount fI.y)
          (tapValue s.cfg.num (s.tapCount + 1) fQ.y))]) ∧
      State.DecimatedEffect (magnitude s.cfg.num fI.y fQ.y) u t

/-- R141: in mode 2 a finite bypass pair has the effect of one decimated sample of its power, and touches neither
filter nor the decimation phase. -/
def Obligations.CplxDecimatedRunsTheDecimatedPath : Prop :=
  ∀ (s : State) (iv qv : BitVec 32), s.halted = false → s.cfg.debugMode = 2 →
    finiteBits iv = true → finiteBits qv = true →
    ∃ t, exec (.cplxDecimated iv qv) s = .next t ∧
      State.DecimatedEffect (magnitude s.cfg.num (decodeNum s.cfg iv) (decodeNum s.cfg qv)) s t ∧
      t.filtI = s.filtI ∧ t.filtQ = s.filtQ ∧ t.decimPhase = s.decimPhase

/-- R111, R115: a transaction outside the modes that admit its kind, or with a component that is not finite,
marks the refusal and changes nothing else. That the refusal is a next state, and that its reason replaces one that
stands, is the model's choice (notes/assumptions/8.md). -/
def Obligations.UnadmittedTransactionsAreRefused : Prop :=
  ∀ s : State, s.halted = false →
    (∀ ib qb, ¬(s.cfg.debugMode = 0 ∨ s.cfg.debugMode = 1 ∨ s.cfg.debugMode = 3) →
      exec (.rawSample ib qb) s = .next { s with refused := some .kindNotInMode }) ∧
    (∀ iv qv, s.cfg.debugMode ≠ 2 →
      exec (.cplxDecimated iv qv) s = .next { s with refused := some .kindNotInMode }) ∧
    (∀ iv qv, s.cfg.debugMode = 2 → iv.extractLsb' 23 8 = 0xFF#8 ∨ qv.extractLsb' 23 8 = 0xFF#8 →
      exec (.cplxDecimated iv qv) s = .next { s with refused := some .nonfinitePayload })

/-- R310, R223, R372: what a transaction adds to the history, in order: at most one `TAP_CONV` (mode 1, raw
only), at most one `TAP_FILT` (mode 3, raw only), at most one `BIT`, and only after a `BIT` one framing event or
the pair `PACKET`, `PACKET_DELIVERED`. -/
def Obligations.TransactionEventsComeInOrder : Prop :=
  ∀ (i : Instr) (s t : State), exec i s = .next t →
    ∃ conv filt decision framing,
      t.history = s.history ++ conv ++ filt ++ decision ++ framing ∧
      (conv = [] ∨ s.cfg.debugMode = 1 ∧ (∃ ib qb, i = .rawSample ib qb) ∧
        ∃ x y, conv = [.out (.tapConv x y)]) ∧
      (filt = [] ∨ s.cfg.debugMode = 3 ∧ (∃ ib qb, i = .rawSample ib qb) ∧
        ∃ x y, filt = [.out (.tapFilt x y)]) ∧
      (decision = [] ∧ framing = [] ∨ (∃ b, decision = [.trace (.bit b)]) ∧ FramingEvents framing)

/-- R143: a tap never changes block state. The modes 0, 1 and 3 run a RAW_SAMPLE to the same registers, the same
packets, each as often and in the same order, and the same trace; they differ in the taps alone. -/
def Obligations.TapsDoNotChangeBlockState : Prop :=
  ∀ (s t u : State) (ib qb : Byte) (m n : Nat),
    m = 0 ∨ m = 1 ∨ m = 3 → n = 0 ∨ n = 1 ∨ n = 3 →
    exec (.rawSample ib qb) { s with cfg := { s.cfg with debugMode := m } } = .next t →
    exec (.rawSample ib qb) { s with cfg := { s.cfg with debugMode := n } } = .next u →
    u = { t with cfg := u.cfg, history := u.history, tapCount := u.tapCount } ∧
    u.traces = t.traces ∧
    packetsOf u.events = packetsOf t.events

/-- R308, I3: a binary32 value that is not a NaN leaves at a tap with its own bits, a NaN leaves as some NaN pattern,
and a rational leaves as itself. Which NaN pattern is free, whatever the number of the value
(notes/assumptions/4.md). -/
def Obligations.TapValuesKeepTheirBits : Prop :=
  ∀ n : Nat,
    (∀ w : BitVec 32, nanBits w = false → tapValue .binary32 n (.f32 (.val w)) = .binary32 w) ∧
    (∀ x : F32, x.isNan = true → ∃ w, tapValue .binary32 n (.f32 x) = .binary32 w ∧ nanBits w = true) ∧
    (∀ q : Rat, tapValue .exact n (.exact q) = .exact q)

/-! ## The configuration -/

/-- R31: a configuration is well-formed exactly when every named check of the table holds. A `NUM` value that is finite
is a finite binary32 pattern or, in an exact session, a rational. `cfg_num` and `cfg_ra_mode` hold of every value of
their types. -/
def Obligations.ConfigIsWellFormedExactlyWhenTheChecksHold : Prop :=
  ∀ c : Config,
    let constant := fun v : NUM =>
      (c.num = .binary32 ∧ ∃ w, v = .f32 (.val w) ∧ w.extractLsb' 23 8 ≠ 0xFF#8) ∨ (c.num = .exact ∧ ∃ q, v = .exact q)
    c.wellFormed = true ↔
      1 ≤ c.decim ∧ 1 ≤ c.spb ∧ c.spb < 2 ^ c.wCnt ∧ 1 ≤ c.minTrans ∧
      (c.debugMode = 0 ∨ c.debugMode = 1 ∨ c.debugMode = 2 ∨ c.debugMode = 3) ∧
      c.iqConv.length = 256 ∧ (∀ v ∈ c.iqConv, constant v) ∧
      1 ≤ c.nb ∧ c.b.length = c.nb ∧ (∀ v ∈ c.b, constant v) ∧
      1 ≤ c.na ∧ c.a.length + 1 = c.na ∧ (∀ v ∈ c.a, constant v) ∧
      2 ≤ c.wCnt

/-! ## Operands, conversion and the filter pair -/

/-- R142, R82: the converter reads the configured table at both bytes, which leaves the values as configured. -/
def Obligations.IqConvertReadsTheTable : Prop :=
  ∀ (c : Config) (ib qb : Byte), c.wellFormed = true →
    ∃ x y, c.iqConv[ib.toNat]? = some x ∧ c.iqConv[qb.toNat]? = some y ∧ iqConvert c ib qb = (x, y)

/-- R113, R114: under the reference codec and the exact instance a finite bypass component is the rational value of its
binary32 pattern, with sign `s`, exponent field `E` and fraction `F`; under binary32 it is the pattern itself. That
every codec is the reference one under binary32 is the model's reading (notes/assumptions/3.md). -/
def Obligations.BypassComponentsDecodeToTheirValue : Prop :=
  ∀ (c : Config) (w : BitVec 32), finiteBits w = true →
    (c.num = .binary32 → decodeNum c w = .f32 (.val w)) ∧
    (c.num = .exact → c.bypassCodec = .binary32Pair →
      let E := (w.extractLsb' 23 8).toNat
      let F := (w.extractLsb' 0 23).toNat
      decodeNum c w = .exact ((if w.getLsbD 31 then -1 else 1) *
        (if E = 0 then (F : Rat) * 2 ^ (-149 : Int) else (2 ^ 23 + F : Rat) * 2 ^ ((E : Int) - 150))))

/-- R9, R114, I20: `BYPASS_CODEC` is open. Whatever decoder an implementation has for the exact instance, some codec of the
model is that decoder; a codec is read at every listed pattern as listed (the first entry for it counts), and at every
other one as the reference codec is. The form of the parameter is the model's
choice (notes/assumptions/3.md). -/
def Obligations.EveryDecoderIsSomeCodec : Prop :=
  ∀ c : Config, c.num = .exact →
    (∀ decoder : BitVec 32 → Rat, ∃ codec : BypassCodec,
      ∀ w, decodeNum { c with bypassCodec := codec } w = .exact (decoder w)) ∧
    (∀ (entries : List (BitVec 32 × Rat)) (w : BitVec 32), c.bypassCodec = .table entries →
      (∀ q, entries.lookup w = some q → decodeNum c w = .exact q) ∧
      (entries.lookup w = none → decodeNum c w = decodeNum { c with bypassCodec := .binary32Pair } w))

/-- R172: under the exact instance, from reset, the output after the `n`-th input is
`sum B[k] x[n-k] - sum A[k] y[n-k]`, with inputs and outputs before the first one zero. -/
def Obligations.FilterComputesItsDifferenceEquation : Prop :=
  ∀ (c : Config) (xs : List Rat) (n : Nat), c.wellFormed = true → c.num = .exact → n < xs.length →
    let out := fun m : Nat =>
      (((xs.take (m + 1)).foldl (fun f x => FilterState.put c (.exact x) f) (FilterState.initial c)).y).toRat
    out n =
      (∑ k ∈ Finset.range c.nb, if k ≤ n then (c.b.getD k (.exact 0)).toRat * xs.getD (n - k) 0 else 0) -
      (∑ k ∈ Finset.Ico 1 c.na, if k ≤ n then (c.a.getD (k - 1) (.exact 0)).toRat * out (n - k) else 0)

/-- R180, R183, R181, D9: a put on a channel, either one and in either numeric domain, writes that channel's filter
alone: the input history shifts by one; the output is the feed-forward sum over the new input history, from `0n` and
from `k = 0` up, less the feedback terms over the old output history, from `k = 1` up, each operation applied once in
that order; the output history shifts the output in; the other lane keeps its state. -/
def Obligations.FilterPutWritesItsOwnLane : Prop :=
  ∀ (s : State) (ch : Channel) (x : NUM), s.cfg.wellFormed = true → (s.filter ch).Fits s.cfg →
    let d := s.cfg.num
    let old := s.filter ch
    ∃ f, s.filterPut ch x =
        (match ch with
          | .inPhase => { s with filtI := f }
          | .quadrature => { s with filtQ := f }) ∧
      f.xh.length = s.cfg.nb ∧ f.xh[0]? = some x ∧ (∀ k, k + 1 < s.cfg.nb → f.xh[k + 1]? = old.xh[k]?) ∧
      f.y = (List.range (s.cfg.na - 1)).foldl
        (fun acc k => NUM.sub d acc
          (NUM.mul d (NUM.lit d (s.cfg.a.getD k (NUM.zero d))) (old.yh.getD k (NUM.zero d))))
        ((List.range s.cfg.nb).foldl
          (fun acc k => NUM.add d acc
            (NUM.mul d (NUM.lit d (s.cfg.b.getD k (NUM.zero d))) (f.xh.getD k (NUM.zero d))))
          (NUM.zero d)) ∧
      f.yh.length = s.cfg.na - 1 ∧ (2 ≤ s.cfg.na → f.yh[0]? = some f.y) ∧
      (∀ k, k + 1 < s.cfg.na - 1 → f.yh[k + 1]? = old.yh[k]?) ∧
      (s.filterPut ch x).filterGet ch = f.y ∧
      (∀ other, other ≠ ch → (s.filterPut ch x).filter other = s.filter other)

/-- R45 (g), R182: the decimation phase counts RAW_SAMPLE transactions modulo `DECIM`. -/
def Obligations.DecimationPhaseCountsRawSamples : Prop :=
  ∀ (samples : List (Byte × Byte)) (s : State), s.decimPhase < s.cfg.decim →
    (samples.foldl (fun u p => u.rawSample p.1 p.2) s).decimPhase =
      (s.decimPhase + samples.length) % s.cfg.decim

/-! ## Numeric domain and magnitude -/

/-- R170, roundTiesToEven: the rounded code is a nearest one, the even one of two nearest, and the infinity
exactly from half a unit in the last place above the largest finite value. The rounding and the threshold are IEEE
754's, which the spec names and does not spell out: PRESUMED (notes/assumptions/12.md). -/
def Obligations.RoundingIsToNearestTiesToEven : Prop :=
  ∀ num den : Nat, 0 < den →
    (roundUnits num den = infCode ↔ den * (2 ^ 277 - 2 ^ 252) ≤ num) ∧
    (roundUnits num den ≠ infCode → roundUnits num den < infCode ∧
      ∀ m, m < infCode →
        let err := fun k : Nat => ((unitsOfCode k * den : Nat) - (num : Int)).natAbs
        err (roundUnits num den) ≤ err m ∧
        (m ≠ roundUnits num den → err m = err (roundUnits num den) → roundUnits num den % 2 = 0))

/-- R170: binary32 agrees with the exact instance wherever the exact result is representable. -/
def Obligations.RepresentableResultsAreExact : Prop :=
  ∀ a b r : BitVec 32, finiteBits a = true → finiteBits b = true → finiteBits r = true →
    (ratOfBits r = ratOfBits a + ratOfBits b → (F32.add (.val a) (.val b)).toRat = ratOfBits r) ∧
    (ratOfBits r = ratOfBits a - ratOfBits b → (F32.sub (.val a) (.val b)).toRat = ratOfBits r) ∧
    (ratOfBits r = ratOfBits a * ratOfBits b → (F32.mul (.val a) (.val b)).toRat = ratOfBits r)

/-- R170, R13: on finite operands `+n`, `-n` and `*n` are the exact result rounded once: its sign, and the code that
`roundUnits` gives for its magnitude in units of `2^-149`. The operators of `NUM` are these under binary32, for every
operand, and the rational operations under exact; `0n` is the zero of each, and a constant of the domain is read as it
is. The sign of an exact zero is IEEE 754's: PRESUMED (notes/assumptions/12.md). That a product below the least subnormal
is rounded to nearest, where R200 says to zero, is the model's choice (notes/assumptions/24.md). -/
def Obligations.OperationsRoundTheExactResult : Prop :=
  (∀ a b : BitVec 32, finiteBits a = true → finiteBits b = true →
    let x := ratOfBits a
    let y := ratOfBits b
    let rounded := fun q : Rat => F32.ofCode (decide (q < 0)) (roundUnits (q.num.natAbs * 2 ^ 149) q.den)
    F32.add (.val a) (.val b) = (if x + y = 0 then F32.ofCode (signBit a && signBit b) 0 else rounded (x + y)) ∧
    F32.sub (.val a) (.val b) = (if x - y = 0 then F32.ofCode (signBit a && !signBit b) 0 else rounded (x - y)) ∧
    F32.mul (.val a) (.val b) = (if x * y = 0 then F32.ofCode (signBit a != signBit b) 0 else rounded (x * y))) ∧
  (∀ x y : F32,
    NUM.add .binary32 (.f32 x) (.f32 y) = .f32 (F32.add x y) ∧
    NUM.sub .binary32 (.f32 x) (.f32 y) = .f32 (F32.sub x y) ∧
    NUM.mul .binary32 (.f32 x) (.f32 y) = .f32 (F32.mul x y) ∧ NUM.lit .binary32 (.f32 x) = .f32 x) ∧
  (∀ p q : Rat,
    NUM.add .exact (.exact p) (.exact q) = .exact (p + q) ∧ NUM.sub .exact (.exact p) (.exact q) = .exact (p - q) ∧
    NUM.mul .exact (.exact p) (.exact q) = .exact (p * q) ∧ NUM.lit .exact (.exact p) = .exact p) ∧
  NUM.zero .binary32 = .f32 (.val 0x00000000#32) ∧ NUM.zero .exact = .exact 0

/-- R170: division of finite operands is the exact quotient rounded once, and `a /n k` divides by the binary32 value
nearest to the integer `k`, for every `a` and every `k >= 1`; up to `2^24` that value is `k` itself. Under exact, `/n` is the
rational quotient. The sign of a zero quotient is IEEE 754's: PRESUMED
(notes/assumptions/12.md). -/
def Obligations.DivisionRoundsTheExactQuotient : Prop :=
  let rounded := fun q : Rat => F32.ofCode (decide (q < 0)) (roundUnits (q.num.natAbs * 2 ^ 149) q.den)
  (∀ a b : BitVec 32, finiteBits a = true → finiteBits b = true → ratOfBits b ≠ 0 →
    F32.div (.val a) (.val b) =
      if ratOfBits a = 0 then F32.ofCode (signBit a != signBit b) 0 else rounded (ratOfBits a / ratOfBits b)) ∧
  (∀ k : Nat, F32.ofNat k = rounded k) ∧
  (∀ k : Nat, k ≤ 2 ^ 24 → (F32.ofNat k).finite = true ∧ (F32.ofNat k).toRat = k) ∧
  (∀ (x : F32) (k : Nat), 1 ≤ k → NUM.divNat .binary32 (.f32 x) k = .f32 (F32.div x (F32.ofNat k))) ∧
  (∀ (q : Rat) (k : Nat), 1 ≤ k → NUM.divNat .exact (.exact q) k = .exact (q / k)) ∧
  (∀ (a : BitVec 32) (k : Nat), finiteBits a = true → 1 ≤ k → k ≤ 2 ^ 24 →
    NUM.divNat .binary32 (.f32 (.val a)) k =
      .f32 (if ratOfBits a = 0 then F32.ofCode (signBit a) 0 else rounded (ratOfBits a / k)))

/-- R171, R200: a result whose exact magnitude is `2^128 - 2^103` or more overflows to the infinity of its sign, and a
smaller one is finite; the cases of each operation with an infinity, a zero divisor or a NaN. R171 states that
`+inf -n +inf` is a NaN; the threshold and the other cases are IEEE 754's, which the spec names and does not spell out:
PRESUMED (notes/assumptions/12.md). -/
def Obligations.OverflowInfinitiesAndNans : Prop :=
  let inf := fun s : Bool => F32.ofCode s infCode
  (∀ q : Rat,
    let r := F32.ofCode (decide (q < 0)) (roundUnits (q.num.natAbs * 2 ^ 149) q.den)
    (2 ^ 128 - 2 ^ 103 ≤ |q| → r = inf (decide (q < 0))) ∧ (|q| < 2 ^ 128 - 2 ^ 103 → r.finite = true)) ∧
  (∀ (s : Bool) (b : BitVec 32), finiteBits b = true →
    F32.add (inf s) (.val b) = inf s ∧ F32.add (.val b) (inf s) = inf s ∧
    F32.sub (inf s) (.val b) = inf s ∧ F32.sub (.val b) (inf s) = inf (!s) ∧
    F32.mul (inf s) (.val b) = (if ratOfBits b = 0 then .nan else inf (s != signBit b)) ∧
    F32.mul (.val b) (inf s) = (if ratOfBits b = 0 then .nan else inf (signBit b != s)) ∧
    F32.div (inf s) (.val b) = inf (s != signBit b) ∧ F32.div (.val b) (inf s) = F32.ofCode (signBit b != s) 0) ∧
  (∀ s r : Bool,
    F32.add (inf s) (inf r) = (if s = r then inf s else .nan) ∧
    F32.sub (inf s) (inf r) = (if s = r then .nan else inf s) ∧
    F32.mul (inf s) (inf r) = inf (s != r) ∧ F32.div (inf s) (inf r) = .nan) ∧
  (∀ a b : BitVec 32, finiteBits a = true → finiteBits b = true → ratOfBits b = 0 →
    F32.div (.val a) (.val b) = if ratOfBits a = 0 then .nan else inf (signBit a != signBit b)) ∧
  (∀ x y : F32, x.isNan = true ∨ y.isNan = true →
    F32.add x y = .nan ∧ F32.sub x y = .nan ∧ F32.mul x y = .nan ∧ F32.div x y = .nan)

/-- R170, R220, R225: `>n` under binary32 is the order of the rational values on finite operands, has `+inf` above and
`-inf` below all of them, and is false of an operand with itself or with a NaN; under exact it is the order of the
rationals. The raw bit is the envelope's `>n` against the baseline, in this order of the operands, so a tie gives 0. The
order of the infinities is IEEE 754's: PRESUMED (notes/assumptions/12.md). -/
def Obligations.ComparisonIsTheOrderOfValues : Prop :=
  (∀ a b : BitVec 32, finiteBits a = true → finiteBits b = true →
    (F32.gt (.val a) (.val b) = true ↔ ratOfBits b < ratOfBits a)) ∧
  (∀ (s : Bool) (b : BitVec 32), finiteBits b = true →
    F32.gt (F32.ofCode s infCode) (.val b) = !s ∧ F32.gt (.val b) (F32.ofCode s infCode) = s) ∧
  (∀ s r : Bool, F32.gt (F32.ofCode s infCode) (F32.ofCode r infCode) = (!s && r)) ∧
  (∀ x y : F32, x.isNan = true ∨ y.isNan = true → F32.gt x y = false) ∧
  (∀ x y : F32, NUM.gt .binary32 (.f32 x) (.f32 y) = F32.gt x y ∧ NUM.gt .binary32 (.f32 x) (.f32 x) = false) ∧
  (∀ p q : Rat, NUM.gt .exact (.exact p) (.exact q) = true ↔ q < p) ∧
  (∀ (d : NumDomain) (e m : NUM), rawBit d e m = NUM.gt d e m ∧ rawBit d m m = false)

/-- R200, D9: the magnitude is `i*i + q*q`, under binary32 with each product and the sum rounded on its own, and the sign
of either component has no effect, under both instances. -/
def Obligations.MagnitudeIgnoresSigns : Prop :=
  (∀ i q : Rat, magnitude .exact (.exact i) (.exact q) = .exact (i * i + q * q) ∧
    magnitude .exact (.exact (-i)) (.exact q) = magnitude .exact (.exact i) (.exact q) ∧
    magnitude .exact (.exact i) (.exact (-q)) = magnitude .exact (.exact i) (.exact q)) ∧
  (∀ i q : BitVec 32,
    magnitude .binary32 (.f32 (.val i)) (.f32 (.val q)) =
      .f32 (F32.add (F32.mul (.val i) (.val i)) (F32.mul (.val q) (.val q))) ∧
    magnitude .binary32 (.f32 (F32.neg (.val i))) (.f32 (.val q)) =
      magnitude .binary32 (.f32 (.val i)) (.f32 (.val q)) ∧
    magnitude .binary32 (.f32 (.val i)) (.f32 (F32.neg (.val q))) =
      magnitude .binary32 (.f32 (.val i)) (.f32 (.val q)))

/-- R200: the magnitude is never negative and never a NaN for finite operands (binary32). -/
def Obligations.MagnitudeIsNeitherNegativeNorNan : Prop :=
  ∀ i q : BitVec 32, finiteBits i = true → finiteBits q = true →
    ∃ w, magnitude .binary32 (.f32 (.val i)) (.f32 (.val q)) = .f32 (.val w) ∧
      signBit w = false ∧ nanBits w = false

/-! ## Running averages -/

/-- R210: an update writes the slot at `pos` alone, adds the new value to the sum before it subtracts the old one,
advances `pos` modulo the window and `count` up to it, and returns the sum over the divisor of `RA_MODE`. -/
def Obligations.RunningAverageUpdate : Prop :=
  ∀ (d : NumDomain) (m : RaMode) (w : Nat) (v : NUM) (r : RunningAverage), r.Fits d w →
    ∃ (old : NUM) (r' : RunningAverage),
      r.buf[r.pos]? = some old ∧
      r.update d m w v = (r', NUM.divNat d r'.sum (if m = .zeroFilled then w else r'.count)) ∧
      r'.sum = NUM.sub d (NUM.add d r.sum v) old ∧
      r'.buf[r.pos]? = some v ∧ (∀ k, k ≠ r.pos → r'.buf[k]? = r.buf[k]?) ∧ r'.buf.length = w ∧
      r'.pos = (if r.pos + 1 = w then 0 else r.pos + 1) ∧
      r'.count = min (r.count + 1) w ∧ 1 ≤ r'.count

/-- R210, R211: under the exact instance the running sum stays the sum of the window, so under `ZERO_FILLED`
every update returns the mean of the window. -/
def Obligations.ExactMeanIsTheMeanOfTheWindow : Prop :=
  ∀ (w : Nat) (v : NUM) (r : RunningAverage), r.Fits .exact w →
    r.sum.toRat = (r.buf.map NUM.toRat).sum → NUM.inDomain .exact v = true →
    let u := r.update .exact .zeroFilled w v
    u.1.Fits .exact w ∧ u.1.sum.toRat = (u.1.buf.map NUM.toRat).sum ∧
    u.2.toRat = (u.1.buf.map NUM.toRat).sum / w

/-- R211: a constant fed from reset under the exact instance: the `k`-th update returns `min(k, W) * c / W` under
`ZERO_FILLED`, and `c` under `PARTIAL`. -/
def Obligations.RunningAverageConverges : Prop :=
  ∀ (w k : Nat) (c : Rat), 1 ≤ w →
    let before := fun m : RaMode =>
      (fun r => (RunningAverage.update .exact m w (.exact c) r).1)^[k] (RunningAverage.initial .exact w)
    ((before .zeroFilled).update .exact .zeroFilled w (.exact c)).2 = .exact ((min (k + 1) w : Nat) * c / w) ∧
    ((before .partialWindow).update .exact .partialWindow w (.exact c)).2 = .exact c

/-! ## The bit slicer -/

/-- R222, R224: while the raw bit stays as it is, decisions come exactly once per `SPB` samples: of `n` samples,
those at distance `d`, `d + SPB`, `d + 2 SPB`, … with `d` the distance of the next decision. The width `W_CNT` plays no
part (R228). -/
def Obligations.DecisionsComeOncePerBitPeriod : Prop :=
  ∀ (s : State) (n : Nat), s.cfg.wellFormed = true → s.SlicerInv →
    let t := (fun u => u.sliceBit s.lastBit)^[n] s
    decidedBits t.traces = decidedBits s.traces ++
      List.replicate ((n + s.cfg.spb - 1 - s.decisionDistance) / s.cfg.spb) s.lastBit ∧
    t.sampleIdx = (s.sampleIdx + n) % 2 ^ s.cfg.wCnt ∧ t.SlicerInv

/-- R221, R226: a transition re-anchors the clock. With `SPB >= 2` the transition sample takes no decision and the next
comes `SPB div 2` samples after it; with `SPB = 1` every sample is a decision, so that whatever raw bits come, each one
is decided. -/
def Obligations.TransitionReanchorsTheClock : Prop :=
  ∀ (s : State) (b : Bool), s.cfg.wellFormed = true → s.SlicerInv →
    (2 ≤ s.cfg.spb → b ≠ s.lastBit →
      (s.sliceBit b).history = s.history ∧ (s.sliceBit b).decisionDistance = s.cfg.spb / 2 - 1) ∧
    (s.cfg.spb = 1 → ∀ bits : List Bool,
      decidedBits (bits.foldl (fun u x => u.sliceBit x) s).traces = decidedBits s.traces ++ bits) ∧
    (s.sliceBit b).lastBit = b ∧ (s.sliceBit b).SlicerInv

/-- R171: once the envelope sum is a NaN it stays one, and every later raw bit and every later bit decision is `0`
until reset. -/
def Obligations.NanSumSlicesToZeroForGood : Prop :=
  ∀ (ps : List NUM) (s : State), s.cfg.num = .binary32 → s.env.sum = .f32 .nan →
    let t := ps.foldl (fun u p => u.slice p) s
    t.env.sum = .f32 .nan ∧ (ps ≠ [] → t.lastBit = false) ∧
    ∃ k, decidedBits t.traces = decidedBits s.traces ++ List.replicate k false

/-! ## Framing, Manchester decoding, packets -/

/-- R251, R252: preamble transitions are counted; a bit equal to the previous one clears the count; the one that
reaches `MIN_TRANS` enters `SeekPreambleEnd`. -/
def Obligations.PreambleTransitionsAreCounted : Prop :=
  ∀ (s : State) (b : Bool), s.fsmState = .seekPreamble → 1 ≤ s.cfg.minTrans →
    (b = s.prevBit → s.fsmStep b = { s with transCnt := 0, prevBit := b }) ∧
    (b ≠ s.prevBit → s.transCnt + 1 ≠ s.cfg.minTrans →
      s.fsmStep b = { s with transCnt := s.transCnt + 1, prevBit := b }) ∧
    (b ≠ s.prevBit → s.transCnt + 1 = s.cfg.minTrans →
      s.fsmStep b = { s with transCnt := 0, zeroCnt := 0, fsmState := .seekPreambleEnd, prevBit := b,
                             history := s.history ++ [.trace .preambleSeen] })

/-- R253, R254, R255: in `SeekPreambleEnd` a `1` is a malformed terminator, the fourth `0` enters `Receiving` with
its counters reset, and an earlier `0` is counted. -/
def Obligations.TerminatorZerosAreCounted : Prop :=
  ∀ (s : State) (b : Bool), s.fsmState = .seekPreambleEnd →
    (b = true → s.fsmStep b =
      { s with zeroCnt := 0, fsmState := .seekPreamble, prevBit := true,
               history := s.history ++ [.trace .malformedTerminator] }) ∧
    (b = false → s.zeroCnt = 3 → s.fsmStep b =
      { s with zeroCnt := 0, acc := 0x00#8, bitCnt := 0, fill := 0, parity := false, fsmState := .receiving,
               prevBit := false, history := s.history ++ [.trace .frameStart] }) ∧
    (b = false → s.zeroCnt ≠ 3 → s.fsmStep b = { s with zeroCnt := s.zeroCnt + 1, prevBit := false })

/-- R256, R262: a data half is shifted in at the low end of the accumulator; one that closes no byte does no more,
and without `LAST_HALF_CHECK` the eighth closes the byte into the next free slot. -/
def Obligations.DataHalvesFillTheAccumulator : Prop :=
  ∀ (s : State) (b : Bool), s.fsmState = .receiving → s.parity = false →
    (s.fsmStep b).acc = s.acc.extractLsb' 0 7 ++ BitVec.ofBool b ∧
    (s.cfg.lastHalfCheck = true ∨ s.bitCnt ≠ 7 → s.fsmStep b =
      { s with acc := (s.fsmStep b).acc, bitCnt := s.bitCnt + 1, parity := true, prevBit := b }) ∧
    (s.cfg.lastHalfCheck = false → s.bitCnt = 7 → s.fill + 1 < 10 → s.fsmStep b =
      { s with acc := (s.fsmStep b).acc, bitCnt := 0, parity := true, prevBit := b, fill := s.fill + 1,
               pkt := s.pkt.setIfInBounds s.fill (s.fsmStep b).acc })

/-- R257, R258, R259: a check half equal to the half before it aborts the packet with no output event; a valid one
closes the byte that waits for it under `LAST_HALF_CHECK`, and otherwise changes only the parity. -/
def Obligations.CheckHalvesMustBeTheComplement : Prop :=
  ∀ (s : State) (b : Bool), s.fsmState = .receiving → s.parity = true →
    (b = s.prevBit → s.fsmStep b =
      { s with fsmState := .seekPreamble, parity := false, prevBit := b,
               history := s.history ++ [.trace .manchesterViolation] } ∧ (s.fsmStep b).events = s.events) ∧
    (b ≠ s.prevBit → ¬(s.cfg.lastHalfCheck = true ∧ s.bitCnt = 8) →
      s.fsmStep b = { s with parity := false, prevBit := b }) ∧
    (b ≠ s.prevBit → s.cfg.lastHalfCheck = true → s.bitCnt = 8 → s.fill + 1 < 10 → s.fsmStep b =
      { s with parity := false, prevBit := b, bitCnt := 0, fill := s.fill + 1,
               pkt := s.pkt.setIfInBounds s.fill s.acc })

/-- R262, R263: the tenth byte delivers the packet: one `PACKET` event with the ten bytes of the buffer, then
`PACKET_DELIVERED`, and back to `SeekPreamble` with `fill` at 10 and the buffer kept. The tenth byte is the accumulator,
with the data half shifted in where it is that half that closes the byte. Nothing but these registers, the parity and the
previous bit changes. -/
def Obligations.TenthByteDeliversThePacket : Prop :=
  ∀ (s : State) (b : Bool), s.fsmState = .receiving → s.fill = 9 →
    (s.cfg.lastHalfCheck = false ∧ s.parity = false ∧ s.bitCnt = 7) ∨
      (s.cfg.lastHalfCheck = true ∧ s.parity = true ∧ s.bitCnt = 8 ∧ b ≠ s.prevBit) →
    let t := s.fsmStep b
    t.history = s.history ++ [.out (.packet t.pkt), .trace .packetDelivered] ∧
    (∀ k, k < 9 → t.pkt[k]? = s.pkt[k]?) ∧ t.pkt[9]? = some t.acc ∧
    t.acc = (if s.cfg.lastHalfCheck then s.acc else s.acc.extractLsb' 0 7 ++ BitVec.ofBool b) ∧
    t = { s with fsmState := .seekPreamble, parity := !s.parity, prevBit := b, acc := t.acc, bitCnt := 0,
                 pkt := t.pkt, fill := 10, history := t.history }

/-- R260, R261: the parity flips with every bit consumed in `Receiving`, is cleared on entry to it, and does not
change otherwise; the previous bit is the last one consumed in every state. -/
def Obligations.ParityAlternatesWhileReceiving : Prop :=
  ∀ (s : State) (b : Bool),
    (s.fsmState = .receiving → (s.fsmStep b).parity = !s.parity) ∧
    (s.fsmState ≠ .receiving → (s.fsmStep b).fsmState = .receiving → (s.fsmStep b).parity = false) ∧
    (s.fsmState ≠ .receiving → (s.fsmStep b).fsmState ≠ .receiving → (s.fsmStep b).parity = s.parity) ∧
    (s.fsmStep b).prevBit = b

/-- R265: of the 160 halves after `ENTER_RECEIVING`, if every pair that is examined is a valid one, the packet is
delivered on half 158 (on half 159 with `LAST_HALF_CHECK`), with bit 7 of byte `k` the half `16 k`, and nothing
else happens before it. -/
def Obligations.ValidFrameDeliversItsPacket : Prop :=
  ∀ (s : State) (h : List Bool), s.fsmState = .receiving → s.parity = false → s.bitCnt = 0 → s.fill = 0 →
    h.length = (if s.cfg.lastHalfCheck then 160 else 159) →
    (∀ j, 2 * j + 1 < h.length → h.getD (2 * j + 1) false ≠ h.getD (2 * j) false) →
    let t := s.fsmRun h
    t.fsmState = .seekPreamble ∧ t.history = s.history ++ [.out (.packet t.pkt), .trace .packetDelivered] ∧
    ∀ k, k < 10 → ∃ x : Byte, t.pkt[k]? = some x ∧
      ∀ i, i < 8 → x.getLsbD (7 - i) = h.getD (16 * k + 2 * i) false

/-- R265: if the first pair that fails is the `j`-th, examined, the machine is back in `SeekPreamble` on its check half
with no output event for the frame. -/
def Obligations.ViolatedFrameDeliversNothing : Prop :=
  ∀ (s : State) (h : List Bool) (j : Nat), s.fsmState = .receiving → s.parity = false → s.bitCnt = 0 →
    s.fill = 0 → h.length = 2 * j + 2 → j < (if s.cfg.lastHalfCheck then 80 else 79) →
    (∀ i, i < j → h.getD (2 * i + 1) false ≠ h.getD (2 * i) false) →
    h.getD (2 * j + 1) false = h.getD (2 * j) false →
    let t := s.fsmRun h
    t.fsmState = .seekPreamble ∧ t.history = s.history ++ [.trace .manchesterViolation] ∧ t.events = s.events

/-- R266: fewer bits than `MIN_TRANS` never leave `SeekPreamble`; `MIN_TRANS` alternating bits, the first unlike the
previous bit, and then four zeros start a frame. -/
def Obligations.PreambleThenTerminatorStartsAFrame : Prop :=
  ∀ s : State, s.fsmState = .seekPreamble → s.transCnt = 0 → 1 ≤ s.cfg.minTrans →
    (∀ bits : List Bool, bits.length < s.cfg.minTrans → (s.fsmRun bits).fsmState = .seekPreamble) ∧
    (let preamble := (List.range s.cfg.minTrans).map fun k => if k % 2 = 0 then !s.prevBit else s.prevBit
     let t := s.fsmRun (preamble ++ [false, false, false, false])
     t = { s with fsmState := .receiving, zeroCnt := 0, acc := 0x00#8, bitCnt := 0, fill := 0, parity := false,
                  prevBit := false, history := s.history ++ [.trace .preambleSeen, .trace .frameStart] })

/-- R264, R265, R266 together: a preamble of `MIN_TRANS` alternating bits, the terminator and ten Manchester-encoded
bytes yield exactly one output event, the packet of those bytes. -/
def Obligations.EncodedPacketIsDeliveredOnce : Prop :=
  ∀ (s : State) (bytes : Vector Byte 10), s.fsmState = .seekPreamble → s.transCnt = 0 → 1 ≤ s.cfg.minTrans →
    let preamble := (List.range s.cfg.minTrans).map fun k => if k % 2 = 0 then !s.prevBit else s.prevBit
    (s.fsmRun (preamble ++ [false, false, false, false] ++ manchester bytes.toList)).events =
      s.events ++ [.packet bytes]

/-- R267: from any good state in `Receiving`, whatever 160 bits come, the machine has left `Receiving` by the
last of them. -/
def Obligations.ReceivingEndsWithin160Bits : Prop :=
  ∀ (s : State) (bits : List Bool), s.FramingInv → s.fsmState = .receiving → bits.length = 160 →
    ∃ k, k ≤ 160 ∧ (s.fsmRun (bits.take k)).fsmState = .seekPreamble

/-! ## Byte streams -/

/-- R84, R88: byte `2k` of a raw stream is the low byte of sample `k`, byte `2k+1` the high one, and a trailing byte is
never delivered. -/
def Obligations.RawStreamIsLittleEndian : Prop :=
  ∀ bytes : List Byte, (rawWords bytes).length = bytes.length / 2 ∧
    ∀ k lo hi, bytes[2 * k]? = some lo → bytes[2 * k + 1]? = some hi →
      ∃ T, (rawWords bytes)[k]? = some T ∧ decode T = .ok (.rawSample lo hi)

/-- R86, R88: a bypass pair takes eight stream bytes, the in-phase value first, each value little-endian, and a trailing
partial pair is never delivered. -/
def Obligations.BypassStreamIsLittleEndian : Prop :=
  ∀ bytes : List Byte, (bypassWords bytes).length = bytes.length / 8 ∧
    ∀ k, 8 * k + 8 ≤ bytes.length →
      ∃ T iv qv, (bypassWords bytes)[k]? = some T ∧ decode T = .ok (.cplxDecimated iv qv) ∧
        ∀ j, j < 4 → bytes[8 * k + j]? = some (iv.extractLsb' (8 * j) 8) ∧
          bytes[8 * k + 4 + j]? = some (qv.extractLsb' (8 * j) 8)

/-! ## Invariants -/

/-- R350, R44, R45: the state right after reset is a good one. The configuration it latched is the model's choice
(notes/assumptions/1.md). -/
def Obligations.ResetStateIsGood : Prop :=
  State.reset.Inv ∧ State.reset.SampleClock

/-- R44, R45: every step keeps a good state good: every register in its range, the arrays at their lengths, all values
in the session's domain, the configuration well-formed, the next decision less than one bit period ahead. -/
def Obligations.EveryStepKeepsTheInvariant : Prop :=
  ∀ s t : State, s.Inv → step s = .next t → t.Inv

/-- R45 (f): every step keeps both running averages and the sample index in step with one count of decimated
samples. -/
def Obligations.EveryStepKeepsTheSampleClock : Prop :=
  ∀ s t : State, s.Inv → s.SampleClock → step s = .next t → t.SampleClock
end

