-- ==== Sys2Proof/Laws/Datapath.lean ====
section
/-!
SUPPORT. The datapath's operations keep the session's domain and their shapes (10_state.md R34, R36,
41_filter_pair.md R180, R185, 43_bit_slicer.md R210): one lemma for each.
-/

namespace Sys2Proof

section domain
variable (d : NumDomain) (a b : NUM) (k : Nat)
@[simp] theorem NUM.inDomain_add : NUM.inDomain d (NUM.add d a b) = true := by cases d <;> rfl
@[simp] theorem NUM.inDomain_sub : NUM.inDomain d (NUM.sub d a b) = true := by cases d <;> rfl
@[simp] theorem NUM.inDomain_mul : NUM.inDomain d (NUM.mul d a b) = true := by cases d <;> rfl
@[simp] theorem NUM.inDomain_divNat : NUM.inDomain d (NUM.divNat d a k) = true := by cases d <;> rfl
@[simp] theorem NUM.inDomain_lit : NUM.inDomain d (NUM.lit d a) = true := by cases d <;> rfl
@[simp] theorem NUM.inDomain_zero : NUM.inDomain d (NUM.zero d) = true := by cases d <;> rfl
end domain

section codec
variable (codec : BypassCodec) (d : NumDomain) (w : BitVec 32)
@[simp] theorem NUM.decode_binary32 : NUM.decode codec .binary32 w = .f32 (F32.ofBits w) := rfl
@[simp] theorem NUM.decode_exact : NUM.decode codec .exact w = .exact (codec.ratValue w) := rfl
@[simp] theorem BypassCodec.ratValue_binary32Pair : BypassCodec.binary32Pair.ratValue w = (F32.ofBits w).toRat := rfl
@[simp] theorem BypassCodec.ratValue_table (entries : List (BitVec 32 × Rat)) :
    (BypassCodec.table entries).ratValue w = (entries.lookup w).getD (F32.ofBits w).toRat := rfl
@[simp] theorem NUM.inDomain_decode : NUM.inDomain d (NUM.decode codec d w) = true := by cases d <;> rfl
end codec

/-- Reading a value of the domain as a literal changes nothing (R13). -/
theorem NUM.lit_of_inDomain {d : NumDomain} {v : NUM} (h : NUM.inDomain d v = true) : NUM.lit d v = v := by
  cases d <;> cases v <;> first | rfl | cases h

end Sys2Proof

namespace Sys2Proof.Machine

theorem addTaps_inDomain (d : NumDomain) (coeffs hist : List NUM) (acc : NUM) (h : NUM.inDomain d acc = true) :
    NUM.inDomain d (addTaps d coeffs hist acc) = true := by
  unfold addTaps
  generalize coeffs.zip hist = l
  induction l generalizing acc with
  | nil => exact h
  | cons p l ih => exact ih _ (NUM.inDomain_add d _ _)

theorem subTaps_inDomain (d : NumDomain) (coeffs hist : List NUM) (acc : NUM) (h : NUM.inDomain d acc = true) :
    NUM.inDomain d (subTaps d coeffs hist acc) = true := by
  unfold subTaps
  generalize coeffs.zip hist = l
  induction l generalizing acc with
  | nil => exact h
  | cons p l ih => exact ih _ (NUM.inDomain_sub d _ _)

/-- `FILTER_PUT` keeps the filter's shape (R180, R185). -/
theorem FilterState.put_fits {c : Config} {x : NUM} {f : FilterState} (hx : NUM.inDomain c.num x = true)
    (h : f.Fits c) : (f.put c x).Fits c := by
  have hy : NUM.inDomain c.num (f.put c x).y = true :=
    subTaps_inDomain c.num c.a f.yh _ (addTaps_inDomain c.num c.b _ _ (NUM.inDomain_zero _))
  refine ⟨by simp [FilterState.put, h.xh_length], by simp [FilterState.put, h.yh_length], fun v hv => ?_,
    fun v hv => ?_, hy⟩
  · rcases List.mem_cons.1 (List.mem_of_mem_take hv) with rfl | h'
    · exact hx
    · exact h.xh_domain v h'
  · rcases List.mem_cons.1 (List.mem_of_mem_take hv) with rfl | h'
    · exact hy
    · exact h.yh_domain v h'

/-- `RA_UPDATE` keeps the average's shape (R210). -/
theorem RunningAverage.update_fits {d : NumDomain} {m : RaMode} {w : Nat} {v : NUM} {r : RunningAverage}
    (hv : NUM.inDomain d v = true) (h : r.Fits d w) : (r.update d m w v).1.Fits d w := by
  have hw : 0 < w := Nat.zero_lt_of_lt h.pos_lt
  refine ⟨by simp [RunningAverage.update, h.buf_length], fun x hx => ?_, NUM.inDomain_sub d _ _, Nat.mod_lt _ hw, ?_⟩
  · rcases List.mem_or_eq_of_mem_set hx with h' | rfl
    · exact h.buf_domain x h'
    · exact hv
  · show (if r.count < w then r.count + 1 else r.count) ≤ w
    have := h.count_le
    split <;> omega

/-- The mean that `RA_UPDATE` returns is a value of the session's domain (R210). -/
@[simp] theorem RunningAverage.update_mean_inDomain (d : NumDomain) (m : RaMode) (w : Nat) (v : NUM)
    (r : RunningAverage) : NUM.inDomain d (r.update d m w v).2 = true := NUM.inDomain_divNat d _ _

/-- The magnitude is a value of the session's domain (R200). -/
@[simp] theorem magnitude_inDomain (d : NumDomain) (i q : NUM) : NUM.inDomain d (magnitude d i q) = true :=
  NUM.inDomain_add d _ _

end Sys2Proof.Machine
end

