-- ==== Sys2Proof/Laws/Encoding.lean ====
section
/-!
SUPPORT. The encoder bit by bit (30_encoding.md R112, R113): what every bit of an encoded word is, and so what each
field of it is.
-/

namespace Sys2Proof

@[simp] theorem place_getLsbD (lo : Nat) (x : BitVec w) (k : Nat) :
    (place lo x).getLsbD k = (decide (k < 66) && decide (lo ≤ k) && x.getLsbD (k - lo)) := by
  by_cases h66 : k < 66 <;> by_cases hlo : lo ≤ k <;>
    simp [place, BitVec.getLsbD_shiftLeft, BitVec.getLsbD_setWidth, h66, hlo, Nat.not_lt.mpr, show k < lo ↔ ¬lo ≤ k by omega]

/-- Every bit of an encoded RAW_SAMPLE (R112). -/
theorem encode_rawSample_getLsbD (ib qb : Byte) (k : Nat) :
    (encode (.rawSample ib qb)).getLsbD k =
      if k < 8 then ib.getLsbD k else if k < 16 then qb.getLsbD (k - 8) else false := by
  simp only [encode, BitVec.getLsbD_or, place_getLsbD, BitVec.getLsbD_zero, Bool.and_false, Bool.false_or]
  by_cases h1 : k < 8
  · simp [h1, show k < 66 by omega, show ¬8 ≤ k by omega]
  · by_cases h2 : k < 16
    · simp [h1, h2, show k < 66 by omega, show 8 ≤ k by omega]
    · simp [h1, h2, BitVec.getLsbD_of_ge ib k (by omega), BitVec.getLsbD_of_ge qb (k - 8) (by omega)]

/-- Every bit of an encoded CPLX_DECIMATED (R113). -/
theorem encode_cplxDecimated_getLsbD (iv qv : BitVec 32) (k : Nat) :
    (encode (.cplxDecimated iv qv)).getLsbD k =
      if k < 32 then iv.getLsbD k else if k < 64 then qv.getLsbD (k - 32) else decide (k = 64) := by
  simp only [encode, BitVec.getLsbD_or, place_getLsbD]
  by_cases h1 : k < 32
  · simp [h1, show k < 66 by omega, show ¬64 ≤ k by omega, show ¬32 ≤ k by omega]
  · by_cases h2 : k < 64
    · simp [h1, h2, show k < 66 by omega, show 32 ≤ k by omega, show ¬64 ≤ k by omega]
    · rw [BitVec.getLsbD_of_ge iv k (by omega), BitVec.getLsbD_of_ge qv (k - 32) (by omega)]
      by_cases h3 : k = 64
      · subst h3; simp
      · by_cases h4 : k = 65
        · subst h4; simp
        · simp [h1, h2, h3, show ¬k < 66 by omega]

/-- The kind field of an encoded transaction (R111). -/
def Instr.kind : Instr → BitVec 2
  | .rawSample _ _ => 0b00#2
  | .cplxDecimated _ _ => 0b01#2

theorem kindField_encode (i : Instr) : kindField (encode i) = i.kind := by
  apply BitVec.eq_of_getLsbD_eq
  intro k hk
  cases i with
  | rawSample ib qb =>
    rw [kindField, BitVec.getLsbD_extractLsb', encode_rawSample_getLsbD]
    simp [Instr.kind, show ¬64 + k < 8 by omega, show ¬64 + k < 16 by omega]
  | cplxDecimated iv qv =>
    rw [kindField, BitVec.getLsbD_extractLsb', encode_cplxDecimated_getLsbD]
    have : k = 0 ∨ k = 1 := by omega
    rcases this with rfl | rfl <;> simp [Instr.kind]

end Sys2Proof
end

