-- ==== Sys2Proof/Laws/State.lean ====
section
/-!
SUPPORT. The small lemmas of the state's updates: one per field per update, each true by unfolding, so that no
proof unfolds a record update again; and the two views of the event history.
-/

namespace Sys2Proof.Machine

section record
variable (e : Event) (s : State)
@[simp] theorem State.record_cfg : (s.record e).cfg = s.cfg := rfl
@[simp] theorem State.record_filtI : (s.record e).filtI = s.filtI := rfl
@[simp] theorem State.record_filtQ : (s.record e).filtQ = s.filtQ := rfl
@[simp] theorem State.record_decimPhase : (s.record e).decimPhase = s.decimPhase := rfl
@[simp] theorem State.record_env : (s.record e).env = s.env := rfl
@[simp] theorem State.record_base : (s.record e).base = s.base := rfl
@[simp] theorem State.record_lastBit : (s.record e).lastBit = s.lastBit := rfl
@[simp] theorem State.record_sampleIdx : (s.record e).sampleIdx = s.sampleIdx := rfl
@[simp] theorem State.record_nextDecision : (s.record e).nextDecision = s.nextDecision := rfl
@[simp] theorem State.record_fsmState : (s.record e).fsmState = s.fsmState := rfl
@[simp] theorem State.record_transCnt : (s.record e).transCnt = s.transCnt := rfl
@[simp] theorem State.record_zeroCnt : (s.record e).zeroCnt = s.zeroCnt := rfl
@[simp] theorem State.record_parity : (s.record e).parity = s.parity := rfl
@[simp] theorem State.record_prevBit : (s.record e).prevBit = s.prevBit := rfl
@[simp] theorem State.record_acc : (s.record e).acc = s.acc := rfl
@[simp] theorem State.record_bitCnt : (s.record e).bitCnt = s.bitCnt := rfl
@[simp] theorem State.record_pkt : (s.record e).pkt = s.pkt := rfl
@[simp] theorem State.record_fill : (s.record e).fill = s.fill := rfl
@[simp] theorem State.record_halted : (s.record e).halted = s.halted := rfl
@[simp] theorem State.record_haltCause : (s.record e).haltCause = s.haltCause := rfl
@[simp] theorem State.record_refused : (s.record e).refused = s.refused := rfl
@[simp] theorem State.record_history : (s.record e).history = s.history ++ [e] := rfl
@[simp] theorem State.record_port : (s.record e).port = s.port := rfl
@[simp] theorem State.record_tapCount : (s.record e).tapCount = s.tapCount := rfl
end record

section emit
variable (e : OutputEvent) (s : State)
@[simp] theorem State.emit_cfg : (s.emit e).cfg = s.cfg := rfl
@[simp] theorem State.emit_filtI : (s.emit e).filtI = s.filtI := rfl
@[simp] theorem State.emit_filtQ : (s.emit e).filtQ = s.filtQ := rfl
@[simp] theorem State.emit_decimPhase : (s.emit e).decimPhase = s.decimPhase := rfl
@[simp] theorem State.emit_env : (s.emit e).env = s.env := rfl
@[simp] theorem State.emit_base : (s.emit e).base = s.base := rfl
@[simp] theorem State.emit_lastBit : (s.emit e).lastBit = s.lastBit := rfl
@[simp] theorem State.emit_sampleIdx : (s.emit e).sampleIdx = s.sampleIdx := rfl
@[simp] theorem State.emit_nextDecision : (s.emit e).nextDecision = s.nextDecision := rfl
@[simp] theorem State.emit_fsmState : (s.emit e).fsmState = s.fsmState := rfl
@[simp] theorem State.emit_transCnt : (s.emit e).transCnt = s.transCnt := rfl
@[simp] theorem State.emit_zeroCnt : (s.emit e).zeroCnt = s.zeroCnt := rfl
@[simp] theorem State.emit_parity : (s.emit e).parity = s.parity := rfl
@[simp] theorem State.emit_prevBit : (s.emit e).prevBit = s.prevBit := rfl
@[simp] theorem State.emit_acc : (s.emit e).acc = s.acc := rfl
@[simp] theorem State.emit_bitCnt : (s.emit e).bitCnt = s.bitCnt := rfl
@[simp] theorem State.emit_pkt : (s.emit e).pkt = s.pkt := rfl
@[simp] theorem State.emit_fill : (s.emit e).fill = s.fill := rfl
@[simp] theorem State.emit_halted : (s.emit e).halted = s.halted := rfl
@[simp] theorem State.emit_haltCause : (s.emit e).haltCause = s.haltCause := rfl
@[simp] theorem State.emit_refused : (s.emit e).refused = s.refused := rfl
@[simp] theorem State.emit_history : (s.emit e).history = s.history ++ [.out e] := rfl
@[simp] theorem State.emit_port : (s.emit e).port = s.port := rfl
@[simp] theorem State.emit_tapCount : (s.emit e).tapCount = s.tapCount := rfl
end emit

section trace
variable (t : TraceEvent) (s : State)
@[simp] theorem State.trace_cfg : (s.trace t).cfg = s.cfg := rfl
@[simp] theorem State.trace_filtI : (s.trace t).filtI = s.filtI := rfl
@[simp] theorem State.trace_filtQ : (s.trace t).filtQ = s.filtQ := rfl
@[simp] theorem State.trace_decimPhase : (s.trace t).decimPhase = s.decimPhase := rfl
@[simp] theorem State.trace_env : (s.trace t).env = s.env := rfl
@[simp] theorem State.trace_base : (s.trace t).base = s.base := rfl
@[simp] theorem State.trace_lastBit : (s.trace t).lastBit = s.lastBit := rfl
@[simp] theorem State.trace_sampleIdx : (s.trace t).sampleIdx = s.sampleIdx := rfl
@[simp] theorem State.trace_nextDecision : (s.trace t).nextDecision = s.nextDecision := rfl
@[simp] theorem State.trace_fsmState : (s.trace t).fsmState = s.fsmState := rfl
@[simp] theorem State.trace_transCnt : (s.trace t).transCnt = s.transCnt := rfl
@[simp] theorem State.trace_zeroCnt : (s.trace t).zeroCnt = s.zeroCnt := rfl
@[simp] theorem State.trace_parity : (s.trace t).parity = s.parity := rfl
@[simp] theorem State.trace_prevBit : (s.trace t).prevBit = s.prevBit := rfl
@[simp] theorem State.trace_acc : (s.trace t).acc = s.acc := rfl
@[simp] theorem State.trace_bitCnt : (s.trace t).bitCnt = s.bitCnt := rfl
@[simp] theorem State.trace_pkt : (s.trace t).pkt = s.pkt := rfl
@[simp] theorem State.trace_fill : (s.trace t).fill = s.fill := rfl
@[simp] theorem State.trace_halted : (s.trace t).halted = s.halted := rfl
@[simp] theorem State.trace_haltCause : (s.trace t).haltCause = s.haltCause := rfl
@[simp] theorem State.trace_refused : (s.trace t).refused = s.refused := rfl
@[simp] theorem State.trace_history : (s.trace t).history = s.history ++ [.trace t] := rfl
@[simp] theorem State.trace_port : (s.trace t).port = s.port := rfl
@[simp] theorem State.trace_tapCount : (s.trace t).tapCount = s.tapCount := rfl
end trace

section markRefused
variable (r : RefusalReason) (s : State)
@[simp] theorem State.markRefused_cfg : (s.markRefused r).cfg = s.cfg := rfl
@[simp] theorem State.markRefused_filtI : (s.markRefused r).filtI = s.filtI := rfl
@[simp] theorem State.markRefused_filtQ : (s.markRefused r).filtQ = s.filtQ := rfl
@[simp] theorem State.markRefused_decimPhase : (s.markRefused r).decimPhase = s.decimPhase := rfl
@[simp] theorem State.markRefused_env : (s.markRefused r).env = s.env := rfl
@[simp] theorem State.markRefused_base : (s.markRefused r).base = s.base := rfl
@[simp] theorem State.markRefused_lastBit : (s.markRefused r).lastBit = s.lastBit := rfl
@[simp] theorem State.markRefused_sampleIdx : (s.markRefused r).sampleIdx = s.sampleIdx := rfl
@[simp] theorem State.markRefused_nextDecision : (s.markRefused r).nextDecision = s.nextDecision := rfl
@[simp] theorem State.markRefused_fsmState : (s.markRefused r).fsmState = s.fsmState := rfl
@[simp] theorem State.markRefused_transCnt : (s.markRefused r).transCnt = s.transCnt := rfl
@[simp] theorem State.markRefused_zeroCnt : (s.markRefused r).zeroCnt = s.zeroCnt := rfl
@[simp] theorem State.markRefused_parity : (s.markRefused r).parity = s.parity := rfl
@[simp] theorem State.markRefused_prevBit : (s.markRefused r).prevBit = s.prevBit := rfl
@[simp] theorem State.markRefused_acc : (s.markRefused r).acc = s.acc := rfl
@[simp] theorem State.markRefused_bitCnt : (s.markRefused r).bitCnt = s.bitCnt := rfl
@[simp] theorem State.markRefused_pkt : (s.markRefused r).pkt = s.pkt := rfl
@[simp] theorem State.markRefused_fill : (s.markRefused r).fill = s.fill := rfl
@[simp] theorem State.markRefused_halted : (s.markRefused r).halted = s.halted := rfl
@[simp] theorem State.markRefused_haltCause : (s.markRefused r).haltCause = s.haltCause := rfl
@[simp] theorem State.markRefused_refused : (s.markRefused r).refused = some r := rfl
@[simp] theorem State.markRefused_history : (s.markRefused r).history = s.history := rfl
@[simp] theorem State.markRefused_port : (s.markRefused r).port = s.port := rfl
@[simp] theorem State.markRefused_tapCount : (s.markRefused r).tapCount = s.tapCount := rfl
end markRefused

section setLastBit
variable (b : Bool) (s : State)
@[simp] theorem State.setLastBit_cfg : (s.setLastBit b).cfg = s.cfg := rfl
@[simp] theorem State.setLastBit_filtI : (s.setLastBit b).filtI = s.filtI := rfl
@[simp] theorem State.setLastBit_filtQ : (s.setLastBit b).filtQ = s.filtQ := rfl
@[simp] theorem State.setLastBit_decimPhase : (s.setLastBit b).decimPhase = s.decimPhase := rfl
@[simp] theorem State.setLastBit_env : (s.setLastBit b).env = s.env := rfl
@[simp] theorem State.setLastBit_base : (s.setLastBit b).base = s.base := rfl
@[simp] theorem State.setLastBit_lastBit : (s.setLastBit b).lastBit = b := rfl
@[simp] theorem State.setLastBit_sampleIdx : (s.setLastBit b).sampleIdx = s.sampleIdx := rfl
@[simp] theorem State.setLastBit_nextDecision : (s.setLastBit b).nextDecision = s.nextDecision := rfl
@[simp] theorem State.setLastBit_fsmState : (s.setLastBit b).fsmState = s.fsmState := rfl
@[simp] theorem State.setLastBit_transCnt : (s.setLastBit b).transCnt = s.transCnt := rfl
@[simp] theorem State.setLastBit_zeroCnt : (s.setLastBit b).zeroCnt = s.zeroCnt := rfl
@[simp] theorem State.setLastBit_parity : (s.setLastBit b).parity = s.parity := rfl
@[simp] theorem State.setLastBit_prevBit : (s.setLastBit b).prevBit = s.prevBit := rfl
@[simp] theorem State.setLastBit_acc : (s.setLastBit b).acc = s.acc := rfl
@[simp] theorem State.setLastBit_bitCnt : (s.setLastBit b).bitCnt = s.bitCnt := rfl
@[simp] theorem State.setLastBit_pkt : (s.setLastBit b).pkt = s.pkt := rfl
@[simp] theorem State.setLastBit_fill : (s.setLastBit b).fill = s.fill := rfl
@[simp] theorem State.setLastBit_halted : (s.setLastBit b).halted = s.halted := rfl
@[simp] theorem State.setLastBit_haltCause : (s.setLastBit b).haltCause = s.haltCause := rfl
@[simp] theorem State.setLastBit_refused : (s.setLastBit b).refused = s.refused := rfl
@[simp] theorem State.setLastBit_history : (s.setLastBit b).history = s.history := rfl
@[simp] theorem State.setLastBit_port : (s.setLastBit b).port = s.port := rfl
@[simp] theorem State.setLastBit_tapCount : (s.setLastBit b).tapCount = s.tapCount := rfl
end setLastBit

section setPrevBit
variable (b : Bool) (s : State)
@[simp] theorem State.setPrevBit_cfg : (s.setPrevBit b).cfg = s.cfg := rfl
@[simp] theorem State.setPrevBit_filtI : (s.setPrevBit b).filtI = s.filtI := rfl
@[simp] theorem State.setPrevBit_filtQ : (s.setPrevBit b).filtQ = s.filtQ := rfl
@[simp] theorem State.setPrevBit_decimPhase : (s.setPrevBit b).decimPhase = s.decimPhase := rfl
@[simp] theorem State.setPrevBit_env : (s.setPrevBit b).env = s.env := rfl
@[simp] theorem State.setPrevBit_base : (s.setPrevBit b).base = s.base := rfl
@[simp] theorem State.setPrevBit_lastBit : (s.setPrevBit b).lastBit = s.lastBit := rfl
@[simp] theorem State.setPrevBit_sampleIdx : (s.setPrevBit b).sampleIdx = s.sampleIdx := rfl
@[simp] theorem State.setPrevBit_nextDecision : (s.setPrevBit b).nextDecision = s.nextDecision := rfl
@[simp] theorem State.setPrevBit_fsmState : (s.setPrevBit b).fsmState = s.fsmState := rfl
@[simp] theorem State.setPrevBit_transCnt : (s.setPrevBit b).transCnt = s.transCnt := rfl
@[simp] theorem State.setPrevBit_zeroCnt : (s.setPrevBit b).zeroCnt = s.zeroCnt := rfl
@[simp] theorem State.setPrevBit_parity : (s.setPrevBit b).parity = s.parity := rfl
@[simp] theorem State.setPrevBit_prevBit : (s.setPrevBit b).prevBit = b := rfl
@[simp] theorem State.setPrevBit_acc : (s.setPrevBit b).acc = s.acc := rfl
@[simp] theorem State.setPrevBit_bitCnt : (s.setPrevBit b).bitCnt = s.bitCnt := rfl
@[simp] theorem State.setPrevBit_pkt : (s.setPrevBit b).pkt = s.pkt := rfl
@[simp] theorem State.setPrevBit_fill : (s.setPrevBit b).fill = s.fill := rfl
@[simp] theorem State.setPrevBit_halted : (s.setPrevBit b).halted = s.halted := rfl
@[simp] theorem State.setPrevBit_haltCause : (s.setPrevBit b).haltCause = s.haltCause := rfl
@[simp] theorem State.setPrevBit_refused : (s.setPrevBit b).refused = s.refused := rfl
@[simp] theorem State.setPrevBit_history : (s.setPrevBit b).history = s.history := rfl
@[simp] theorem State.setPrevBit_port : (s.setPrevBit b).port = s.port := rfl
@[simp] theorem State.setPrevBit_tapCount : (s.setPrevBit b).tapCount = s.tapCount := rfl
end setPrevBit

section flipParity
variable (s : State)
@[simp] theorem State.flipParity_cfg : (s.flipParity).cfg = s.cfg := rfl
@[simp] theorem State.flipParity_filtI : (s.flipParity).filtI = s.filtI := rfl
@[simp] theorem State.flipParity_filtQ : (s.flipParity).filtQ = s.filtQ := rfl
@[simp] theorem State.flipParity_decimPhase : (s.flipParity).decimPhase = s.decimPhase := rfl
@[simp] theorem State.flipParity_env : (s.flipParity).env = s.env := rfl
@[simp] theorem State.flipParity_base : (s.flipParity).base = s.base := rfl
@[simp] theorem State.flipParity_lastBit : (s.flipParity).lastBit = s.lastBit := rfl
@[simp] theorem State.flipParity_sampleIdx : (s.flipParity).sampleIdx = s.sampleIdx := rfl
@[simp] theorem State.flipParity_nextDecision : (s.flipParity).nextDecision = s.nextDecision := rfl
@[simp] theorem State.flipParity_fsmState : (s.flipParity).fsmState = s.fsmState := rfl
@[simp] theorem State.flipParity_transCnt : (s.flipParity).transCnt = s.transCnt := rfl
@[simp] theorem State.flipParity_zeroCnt : (s.flipParity).zeroCnt = s.zeroCnt := rfl
@[simp] theorem State.flipParity_parity : (s.flipParity).parity = !s.parity := rfl
@[simp] theorem State.flipParity_prevBit : (s.flipParity).prevBit = s.prevBit := rfl
@[simp] theorem State.flipParity_acc : (s.flipParity).acc = s.acc := rfl
@[simp] theorem State.flipParity_bitCnt : (s.flipParity).bitCnt = s.bitCnt := rfl
@[simp] theorem State.flipParity_pkt : (s.flipParity).pkt = s.pkt := rfl
@[simp] theorem State.flipParity_fill : (s.flipParity).fill = s.fill := rfl
@[simp] theorem State.flipParity_halted : (s.flipParity).halted = s.halted := rfl
@[simp] theorem State.flipParity_haltCause : (s.flipParity).haltCause = s.haltCause := rfl
@[simp] theorem State.flipParity_refused : (s.flipParity).refused = s.refused := rfl
@[simp] theorem State.flipParity_history : (s.flipParity).history = s.history := rfl
@[simp] theorem State.flipParity_port : (s.flipParity).port = s.port := rfl
@[simp] theorem State.flipParity_tapCount : (s.flipParity).tapCount = s.tapCount := rfl
end flipParity

section advanceIndex
variable (s : State)
@[simp] theorem State.advanceIndex_cfg : (s.advanceIndex).cfg = s.cfg := rfl
@[simp] theorem State.advanceIndex_filtI : (s.advanceIndex).filtI = s.filtI := rfl
@[simp] theorem State.advanceIndex_filtQ : (s.advanceIndex).filtQ = s.filtQ := rfl
@[simp] theorem State.advanceIndex_decimPhase : (s.advanceIndex).decimPhase = s.decimPhase := rfl
@[simp] theorem State.advanceIndex_env : (s.advanceIndex).env = s.env := rfl
@[simp] theorem State.advanceIndex_base : (s.advanceIndex).base = s.base := rfl
@[simp] theorem State.advanceIndex_lastBit : (s.advanceIndex).lastBit = s.lastBit := rfl
@[simp] theorem State.advanceIndex_sampleIdx : (s.advanceIndex).sampleIdx = s.cfg.addW s.sampleIdx 1 := rfl
@[simp] theorem State.advanceIndex_nextDecision : (s.advanceIndex).nextDecision = s.nextDecision := rfl
@[simp] theorem State.advanceIndex_fsmState : (s.advanceIndex).fsmState = s.fsmState := rfl
@[simp] theorem State.advanceIndex_transCnt : (s.advanceIndex).transCnt = s.transCnt := rfl
@[simp] theorem State.advanceIndex_zeroCnt : (s.advanceIndex).zeroCnt = s.zeroCnt := rfl
@[simp] theorem State.advanceIndex_parity : (s.advanceIndex).parity = s.parity := rfl
@[simp] theorem State.advanceIndex_prevBit : (s.advanceIndex).prevBit = s.prevBit := rfl
@[simp] theorem State.advanceIndex_acc : (s.advanceIndex).acc = s.acc := rfl
@[simp] theorem State.advanceIndex_bitCnt : (s.advanceIndex).bitCnt = s.bitCnt := rfl
@[simp] theorem State.advanceIndex_pkt : (s.advanceIndex).pkt = s.pkt := rfl
@[simp] theorem State.advanceIndex_fill : (s.advanceIndex).fill = s.fill := rfl
@[simp] theorem State.advanceIndex_halted : (s.advanceIndex).halted = s.halted := rfl
@[simp] theorem State.advanceIndex_haltCause : (s.advanceIndex).haltCause = s.haltCause := rfl
@[simp] theorem State.advanceIndex_refused : (s.advanceIndex).refused = s.refused := rfl
@[simp] theorem State.advanceIndex_history : (s.advanceIndex).history = s.history := rfl
@[simp] theorem State.advanceIndex_port : (s.advanceIndex).port = s.port := rfl
@[simp] theorem State.advanceIndex_tapCount : (s.advanceIndex).tapCount = s.tapCount := rfl
end advanceIndex

section enterReceiving
variable (s : State)
@[simp] theorem State.enterReceiving_cfg : (s.enterReceiving).cfg = s.cfg := rfl
@[simp] theorem State.enterReceiving_filtI : (s.enterReceiving).filtI = s.filtI := rfl
@[simp] theorem State.enterReceiving_filtQ : (s.enterReceiving).filtQ = s.filtQ := rfl
@[simp] theorem State.enterReceiving_decimPhase : (s.enterReceiving).decimPhase = s.decimPhase := rfl
@[simp] theorem State.enterReceiving_env : (s.enterReceiving).env = s.env := rfl
@[simp] theorem State.enterReceiving_base : (s.enterReceiving).base = s.base := rfl
@[simp] theorem State.enterReceiving_lastBit : (s.enterReceiving).lastBit = s.lastBit := rfl
@[simp] theorem State.enterReceiving_sampleIdx : (s.enterReceiving).sampleIdx = s.sampleIdx := rfl
@[simp] theorem State.enterReceiving_nextDecision : (s.enterReceiving).nextDecision = s.nextDecision := rfl
@[simp] theorem State.enterReceiving_fsmState : (s.enterReceiving).fsmState = .receiving := rfl
@[simp] theorem State.enterReceiving_transCnt : (s.enterReceiving).transCnt = s.transCnt := rfl
@[simp] theorem State.enterReceiving_zeroCnt : (s.enterReceiving).zeroCnt = 0 := rfl
@[simp] theorem State.enterReceiving_parity : (s.enterReceiving).parity = false := rfl
@[simp] theorem State.enterReceiving_prevBit : (s.enterReceiving).prevBit = s.prevBit := rfl
@[simp] theorem State.enterReceiving_acc : (s.enterReceiving).acc = 0x00#8 := rfl
@[simp] theorem State.enterReceiving_bitCnt : (s.enterReceiving).bitCnt = 0 := rfl
@[simp] theorem State.enterReceiving_pkt : (s.enterReceiving).pkt = s.pkt := rfl
@[simp] theorem State.enterReceiving_fill : (s.enterReceiving).fill = 0 := rfl
@[simp] theorem State.enterReceiving_halted : (s.enterReceiving).halted = s.halted := rfl
@[simp] theorem State.enterReceiving_haltCause : (s.enterReceiving).haltCause = s.haltCause := rfl
@[simp] theorem State.enterReceiving_refused : (s.enterReceiving).refused = s.refused := rfl
@[simp] theorem State.enterReceiving_history : (s.enterReceiving).history = s.history ++ [.trace .frameStart] := rfl
@[simp] theorem State.enterReceiving_port : (s.enterReceiving).port = s.port := rfl
@[simp] theorem State.enterReceiving_tapCount : (s.enterReceiving).tapCount = s.tapCount := rfl
end enterReceiving

section deliver
variable (s : State)
@[simp] theorem State.deliver_cfg : (s.deliver).cfg = s.cfg := rfl
@[simp] theorem State.deliver_filtI : (s.deliver).filtI = s.filtI := rfl
@[simp] theorem State.deliver_filtQ : (s.deliver).filtQ = s.filtQ := rfl
@[simp] theorem State.deliver_decimPhase : (s.deliver).decimPhase = s.decimPhase := rfl
@[simp] theorem State.deliver_env : (s.deliver).env = s.env := rfl
@[simp] theorem State.deliver_base : (s.deliver).base = s.base := rfl
@[simp] theorem State.deliver_lastBit : (s.deliver).lastBit = s.lastBit := rfl
@[simp] theorem State.deliver_sampleIdx : (s.deliver).sampleIdx = s.sampleIdx := rfl
@[simp] theorem State.deliver_nextDecision : (s.deliver).nextDecision = s.nextDecision := rfl
@[simp] theorem State.deliver_fsmState : (s.deliver).fsmState = .seekPreamble := rfl
@[simp] theorem State.deliver_transCnt : (s.deliver).transCnt = s.transCnt := rfl
@[simp] theorem State.deliver_zeroCnt : (s.deliver).zeroCnt = s.zeroCnt := rfl
@[simp] theorem State.deliver_parity : (s.deliver).parity = s.parity := rfl
@[simp] theorem State.deliver_prevBit : (s.deliver).prevBit = s.prevBit := rfl
@[simp] theorem State.deliver_acc : (s.deliver).acc = s.acc := rfl
@[simp] theorem State.deliver_bitCnt : (s.deliver).bitCnt = s.bitCnt := rfl
@[simp] theorem State.deliver_pkt : (s.deliver).pkt = s.pkt := rfl
@[simp] theorem State.deliver_fill : (s.deliver).fill = s.fill := rfl
@[simp] theorem State.deliver_halted : (s.deliver).halted = s.halted := rfl
@[simp] theorem State.deliver_haltCause : (s.deliver).haltCause = s.haltCause := rfl
@[simp] theorem State.deliver_refused : (s.deliver).refused = s.refused := rfl
@[simp] theorem State.deliver_history : (s.deliver).history = s.history ++ [.out (.packet s.pkt)] ++ [.trace .packetDelivered] := rfl
@[simp] theorem State.deliver_port : (s.deliver).port = s.port := rfl
@[simp] theorem State.deliver_tapCount : (s.deliver).tapCount = s.tapCount := rfl
end deliver

section emitTap
variable (mk : TapValue → TapValue → OutputEvent) (i q : NUM) (s : State)
@[simp] theorem State.emitTap_cfg : (s.emitTap mk i q).cfg = s.cfg := rfl
@[simp] theorem State.emitTap_filtI : (s.emitTap mk i q).filtI = s.filtI := rfl
@[simp] theorem State.emitTap_filtQ : (s.emitTap mk i q).filtQ = s.filtQ := rfl
@[simp] theorem State.emitTap_decimPhase : (s.emitTap mk i q).decimPhase = s.decimPhase := rfl
@[simp] theorem State.emitTap_env : (s.emitTap mk i q).env = s.env := rfl
@[simp] theorem State.emitTap_base : (s.emitTap mk i q).base = s.base := rfl
@[simp] theorem State.emitTap_lastBit : (s.emitTap mk i q).lastBit = s.lastBit := rfl
@[simp] theorem State.emitTap_sampleIdx : (s.emitTap mk i q).sampleIdx = s.sampleIdx := rfl
@[simp] theorem State.emitTap_nextDecision : (s.emitTap mk i q).nextDecision = s.nextDecision := rfl
@[simp] theorem State.emitTap_fsmState : (s.emitTap mk i q).fsmState = s.fsmState := rfl
@[simp] theorem State.emitTap_transCnt : (s.emitTap mk i q).transCnt = s.transCnt := rfl
@[simp] theorem State.emitTap_zeroCnt : (s.emitTap mk i q).zeroCnt = s.zeroCnt := rfl
@[simp] theorem State.emitTap_parity : (s.emitTap mk i q).parity = s.parity := rfl
@[simp] theorem State.emitTap_prevBit : (s.emitTap mk i q).prevBit = s.prevBit := rfl
@[simp] theorem State.emitTap_acc : (s.emitTap mk i q).acc = s.acc := rfl
@[simp] theorem State.emitTap_bitCnt : (s.emitTap mk i q).bitCnt = s.bitCnt := rfl
@[simp] theorem State.emitTap_pkt : (s.emitTap mk i q).pkt = s.pkt := rfl
@[simp] theorem State.emitTap_fill : (s.emitTap mk i q).fill = s.fill := rfl
@[simp] theorem State.emitTap_halted : (s.emitTap mk i q).halted = s.halted := rfl
@[simp] theorem State.emitTap_haltCause : (s.emitTap mk i q).haltCause = s.haltCause := rfl
@[simp] theorem State.emitTap_refused : (s.emitTap mk i q).refused = s.refused := rfl
@[simp] theorem State.emitTap_history : (s.emitTap mk i q).history = s.history ++ [.out (mk (tapValue s.cfg.num s.tapCount i) (tapValue s.cfg.num (s.tapCount + 1) q))] := rfl
@[simp] theorem State.emitTap_port : (s.emitTap mk i q).port = s.port := rfl
@[simp] theorem State.emitTap_tapCount : (s.emitTap mk i q).tapCount = s.tapCount + 2 := rfl
end emitTap

section views
variable (s : State)
@[simp] theorem State.emit_events (e : OutputEvent) : (s.emit e).events = s.events ++ [e] := by
  simp [State.events, List.filterMap_append, Event.output?]
@[simp] theorem State.emit_traces (e : OutputEvent) : (s.emit e).traces = s.traces := by
  simp [State.traces, List.filterMap_append, Event.trace?]
@[simp] theorem State.trace_events (t : TraceEvent) : (s.trace t).events = s.events := by
  simp [State.events, List.filterMap_append, Event.output?]
@[simp] theorem State.trace_traces (t : TraceEvent) : (s.trace t).traces = s.traces ++ [t] := by
  simp [State.traces, List.filterMap_append, Event.trace?]
end views

/-- What a reset input does (R350, R305): a new session, or the refusal mark alone. -/
theorem State.takeReset_cases (r : ResetInput) (s : State) :
    (r.stable = true ∧ r.config.wellFormed = true ∧
      s.takeReset r =
        { State.initial r.config with refused := s.refused, port := s.port, tapCount := s.tapCount }) ∨
    (¬(r.stable = true ∧ r.config.wellFormed = true) ∧ s.takeReset r = s.markRefused .cfgIllFormed) := by
  unfold State.takeReset
  cases r.stable <;> cases r.config.wellFormed <;> simp

/-- What an abort input does (R303). -/
theorem State.takeAbort_cases (cause : BitVec 2) (s : State) :
    (cause = 3#2 ∧ s.takeAbort cause = s.markRefused .abortCauseReserved) ∨
    (cause ≠ 3#2 ∧ s.halted = true ∧ s.takeAbort cause = s) ∨
    (cause ≠ 3#2 ∧ s.halted = false ∧
      s.takeAbort cause = { s with halted := true, haltCause := cause }.trace (.halt cause)) := by
  unfold State.takeAbort
  cases s.halted <;> by_cases h : cause = 3#2 <;> simp [h]

/-- What taking an input off the port changes: the port alone. -/
theorem State.consume_eq (s : State) : ∃ p, s.consume = { s with port := p } := by
  unfold State.consume
  split
  · exact ⟨s.port, rfl⟩
  · exact ⟨_, rfl⟩

@[simp] theorem State.consume_cfg (s : State) : s.consume.cfg = s.cfg := by
  obtain ⟨p, h⟩ := s.consume_eq; rw [h]
@[simp] theorem State.consume_filtI (s : State) : s.consume.filtI = s.filtI := by
  obtain ⟨p, h⟩ := s.consume_eq; rw [h]
@[simp] theorem State.consume_filtQ (s : State) : s.consume.filtQ = s.filtQ := by
  obtain ⟨p, h⟩ := s.consume_eq; rw [h]
@[simp] theorem State.consume_decimPhase (s : State) : s.consume.decimPhase = s.decimPhase := by
  obtain ⟨p, h⟩ := s.consume_eq; rw [h]
@[simp] theorem State.consume_env (s : State) : s.consume.env = s.env := by
  obtain ⟨p, h⟩ := s.consume_eq; rw [h]
@[simp] theorem State.consume_base (s : State) : s.consume.base = s.base := by
  obtain ⟨p, h⟩ := s.consume_eq; rw [h]
@[simp] theorem State.consume_lastBit (s : State) : s.consume.lastBit = s.lastBit := by
  obtain ⟨p, h⟩ := s.consume_eq; rw [h]
@[simp] theorem State.consume_sampleIdx (s : State) : s.consume.sampleIdx = s.sampleIdx := by
  obtain ⟨p, h⟩ := s.consume_eq; rw [h]
@[simp] theorem State.consume_nextDecision (s : State) : s.consume.nextDecision = s.nextDecision := by
  obtain ⟨p, h⟩ := s.consume_eq; rw [h]
@[simp] theorem State.consume_fsmState (s : State) : s.consume.fsmState = s.fsmState := by
  obtain ⟨p, h⟩ := s.consume_eq; rw [h]
@[simp] theorem State.consume_transCnt (s : State) : s.consume.transCnt = s.transCnt := by
  obtain ⟨p, h⟩ := s.consume_eq; rw [h]
@[simp] theorem State.consume_zeroCnt (s : State) : s.consume.zeroCnt = s.zeroCnt := by
  obtain ⟨p, h⟩ := s.consume_eq; rw [h]
@[simp] theorem State.consume_parity (s : State) : s.consume.parity = s.parity := by
  obtain ⟨p, h⟩ := s.consume_eq; rw [h]
@[simp] theorem State.consume_prevBit (s : State) : s.consume.prevBit = s.prevBit := by
  obtain ⟨p, h⟩ := s.consume_eq; rw [h]
@[simp] theorem State.consume_acc (s : State) : s.consume.acc = s.acc := by
  obtain ⟨p, h⟩ := s.consume_eq; rw [h]
@[simp] theorem State.consume_bitCnt (s : State) : s.consume.bitCnt = s.bitCnt := by
  obtain ⟨p, h⟩ := s.consume_eq; rw [h]
@[simp] theorem State.consume_pkt (s : State) : s.consume.pkt = s.pkt := by
  obtain ⟨p, h⟩ := s.consume_eq; rw [h]
@[simp] theorem State.consume_fill (s : State) : s.consume.fill = s.fill := by
  obtain ⟨p, h⟩ := s.consume_eq; rw [h]
@[simp] theorem State.consume_halted (s : State) : s.consume.halted = s.halted := by
  obtain ⟨p, h⟩ := s.consume_eq; rw [h]
@[simp] theorem State.consume_haltCause (s : State) : s.consume.haltCause = s.haltCause := by
  obtain ⟨p, h⟩ := s.consume_eq; rw [h]
@[simp] theorem State.consume_refused (s : State) : s.consume.refused = s.refused := by
  obtain ⟨p, h⟩ := s.consume_eq; rw [h]
@[simp] theorem State.consume_history (s : State) : s.consume.history = s.history := by
  obtain ⟨p, h⟩ := s.consume_eq; rw [h]
@[simp] theorem State.consume_tapCount (s : State) : s.consume.tapCount = s.tapCount := by
  obtain ⟨p, h⟩ := s.consume_eq; rw [h]

@[simp] theorem State.consume_events (s : State) : s.consume.events = s.events := by
  simp [State.events]
@[simp] theorem State.consume_traces (s : State) : s.consume.traces = s.traces := by
  simp [State.traces]

end Sys2Proof.Machine
end

