-- ==== Sys2Proof/Laws/Framing.lean ====
section
/-!
SUPPORT. What the framing machine can do (44_framing.md R250): its frame, its cases, and its events.
-/

namespace Sys2Proof.Machine

/-- What is the same in both, is the same with the framing registers of the second. -/
theorem State.withFraming_self (s : State) : s.withFraming s = s := rfl

/-- Closing a byte (R262): the byte is stored, and the tenth one delivers the packet (R263). -/
theorem State.closeByte_cases (s : State) :
    (s.fill + 1 = pktCap ∧ s.closeByte =
      { s with pkt := s.pkt.setIfInBounds s.fill s.acc, fill := s.fill + 1, bitCnt := 0 }.deliver) ∨
    (s.fill + 1 ≠ pktCap ∧ s.closeByte =
      { s with pkt := s.pkt.setIfInBounds s.fill s.acc, fill := s.fill + 1, bitCnt := 0 }) := by
  by_cases h : s.fill + 1 = pktCap
  · exact .inl ⟨h, by simp [State.closeByte, h]⟩
  · exact .inr ⟨h, by simp [State.closeByte, h]⟩

theorem State.closeByte_frame (s : State) : s.closeByte = s.withFraming s.closeByte := by
  rcases s.closeByte_cases with ⟨_, h⟩ | ⟨_, h⟩ <;> rw [h] <;> rfl

/-- One bit in `SeekPreamble` (R251, R252). -/
theorem State.seekPreambleStep_cases (b : Bool) (s : State) :
    ((if b != s.prevBit then s.transCnt + 1 else 0) = s.cfg.minTrans ∧ s.seekPreambleStep b =
      { s with transCnt := 0, zeroCnt := 0, fsmState := .seekPreambleEnd }.trace .preambleSeen) ∨
    ((if b != s.prevBit then s.transCnt + 1 else 0) ≠ s.cfg.minTrans ∧ s.seekPreambleStep b =
      { s with transCnt := if b != s.prevBit then s.transCnt + 1 else 0 }) := by
  by_cases h : (if b != s.prevBit then s.transCnt + 1 else 0) = s.cfg.minTrans
  · exact .inl ⟨h, if_pos h⟩
  · exact .inr ⟨h, if_neg h⟩

theorem State.seekPreambleStep_frame (b : Bool) (s : State) :
    s.seekPreambleStep b = s.withFraming (s.seekPreambleStep b) := by
  rcases s.seekPreambleStep_cases b with ⟨_, h⟩ | ⟨_, h⟩ <;> rw [h] <;> rfl

/-- One bit in `SeekPreambleEnd` (R253, R254). -/
theorem State.seekPreambleEndStep_cases (b : Bool) (s : State) :
    (b = true ∧ s.seekPreambleEndStep b =
      { s with zeroCnt := 0, fsmState := .seekPreamble }.trace .malformedTerminator) ∨
    (b = false ∧ s.zeroCnt + 1 = termZeros ∧
      s.seekPreambleEndStep b = { s with zeroCnt := s.zeroCnt + 1 }.enterReceiving) ∨
    (b = false ∧ s.zeroCnt + 1 ≠ termZeros ∧
      s.seekPreambleEndStep b = { s with zeroCnt := s.zeroCnt + 1 }) := by
  unfold State.seekPreambleEndStep
  cases b
  · by_cases h : s.zeroCnt + 1 = termZeros
    · exact .inr (.inl ⟨rfl, h, by simp [h]⟩)
    · exact .inr (.inr ⟨rfl, h, by simp [h]⟩)
  · exact .inl ⟨rfl, rfl⟩

theorem State.seekPreambleEndStep_frame (b : Bool) (s : State) :
    s.seekPreambleEndStep b = s.withFraming (s.seekPreambleEndStep b) := by
  rcases s.seekPreambleEndStep_cases b with ⟨_, h⟩ | ⟨_, _, h⟩ | ⟨_, _, h⟩ <;> rw [h] <;> rfl

/-- The state with a data half shifted in (R256). -/
def State.shiftIn (b : Bool) (s : State) : State :=
  { s with acc := (s.acc <<< 1) ||| (if b then 1#8 else 0#8), bitCnt := s.bitCnt + 1 }

/-- A data half (R256): shifted in, and without `LAST_HALF_CHECK` the eighth closes the byte. -/
theorem State.dataHalf_cases (b : Bool) (s : State) :
    (s.cfg.lastHalfCheck = false ∧ s.bitCnt = 7 ∧ s.dataHalf b = (s.shiftIn b).closeByte) ∨
    (¬(s.cfg.lastHalfCheck = false ∧ s.bitCnt = 7) ∧ s.dataHalf b = s.shiftIn b) := by
  by_cases h : s.cfg.lastHalfCheck = false ∧ s.bitCnt = 7
  · refine .inl ⟨h.1, h.2, ?_⟩
    simp [State.dataHalf, State.shiftIn, h.1, h.2]
  · refine .inr ⟨h, ?_⟩
    have : ¬((!s.cfg.lastHalfCheck && s.bitCnt + 1 == 8) = true) := by
      simpa using h
    simp only [State.dataHalf, State.shiftIn, if_neg this]

theorem State.dataHalf_frame (b : Bool) (s : State) : s.dataHalf b = s.withFraming (s.dataHalf b) := by
  rcases s.dataHalf_cases b with ⟨_, _, h⟩ | ⟨_, h⟩
  · rw [h, (s.shiftIn b).closeByte_frame]; rfl
  · rw [h]; rfl

/-- A check half (R257 to R259). -/
theorem State.checkHalf_cases (b : Bool) (s : State) :
    (b = s.prevBit ∧ s.checkHalf b = { s with fsmState := .seekPreamble }.trace .manchesterViolation) ∨
    (b ≠ s.prevBit ∧ s.cfg.lastHalfCheck = true ∧ s.bitCnt = 8 ∧ s.checkHalf b = s.closeByte) ∨
    (b ≠ s.prevBit ∧ ¬(s.cfg.lastHalfCheck = true ∧ s.bitCnt = 8) ∧ s.checkHalf b = s) := by
  unfold State.checkHalf manchesterViolation
  by_cases h : b = s.prevBit
  · exact .inl ⟨h, by simp [h]⟩
  · by_cases h8 : s.cfg.lastHalfCheck = true ∧ s.bitCnt = 8
    · exact .inr (.inl ⟨h, h8.1, h8.2, by simp [h, h8.1, h8.2]⟩)
    · exact .inr (.inr ⟨h, h8, by simp [h]; intro h1 h2; exact absurd ⟨h1, h2⟩ h8⟩)

theorem State.checkHalf_frame (b : Bool) (s : State) : s.checkHalf b = s.withFraming (s.checkHalf b) := by
  rcases s.checkHalf_cases b with ⟨_, h⟩ | ⟨_, _, _, h⟩ | ⟨_, _, h⟩
  · rw [h]; rfl
  · rw [h, ← s.closeByte_frame]
  · rw [h]; rfl

/-- One bit in `Receiving` by its position parity (R256 to R260). -/
theorem State.receivingStep_cases (b : Bool) (s : State) :
    (s.parity = false ∧ s.receivingStep b = (s.dataHalf b).flipParity) ∨
    (s.parity = true ∧ s.receivingStep b = (s.checkHalf b).flipParity) := by
  unfold State.receivingStep
  cases s.parity <;> simp

theorem State.receivingStep_frame (b : Bool) (s : State) :
    s.receivingStep b = s.withFraming (s.receivingStep b) := by
  rcases s.receivingStep_cases b with ⟨_, h⟩ | ⟨_, h⟩
  · rw [h, s.dataHalf_frame b]; rfl
  · rw [h, s.checkHalf_frame b]; rfl

/-- `FSM_STEP` by the framing state (R250). -/
theorem State.fsmStep_cases (b : Bool) (s : State) :
    (s.fsmState = .seekPreamble ∧ s.fsmStep b = (s.seekPreambleStep b).setPrevBit b) ∨
    (s.fsmState = .seekPreambleEnd ∧ s.fsmStep b = (s.seekPreambleEndStep b).setPrevBit b) ∨
    (s.fsmState = .receiving ∧ s.fsmStep b = (s.receivingStep b).setPrevBit b) := by
  unfold State.fsmStep
  cases h : s.fsmState <;> simp

/-- `FSM_STEP` writes the framing and packet registers and the history, and nothing else (R250). -/
theorem State.fsmStep_frame (b : Bool) (s : State) : s.fsmStep b = s.withFraming (s.fsmStep b) := by
  rcases s.fsmStep_cases b with ⟨_, h⟩ | ⟨_, h⟩ | ⟨_, h⟩
  · rw [h, s.seekPreambleStep_frame b]; rfl
  · rw [h, s.seekPreambleEndStep_frame b]; rfl
  · rw [h, s.receivingStep_frame b]; rfl

/-- The framing machine reads and writes the framing registers and the history only: run on a state that takes
them from `t`, it does to them what it does on `t` (R250). -/
theorem State.fsmStep_withFraming (b : Bool) (s t : State) (h : s.cfg = t.cfg) :
    (s.withFraming t).fsmStep b = s.withFraming (t.fsmStep b) := by
  obtain ⟨cfg, _, _, _, _, _, _, _, _, fsm, tc, zc, par, pb, acc, bc, pkt, fill, _, _, _, hist, _, _⟩ := t
  dsimp only at h
  subst h
  cases fsm <;> simp only [State.fsmStep, State.withFraming]
  · unfold State.seekPreambleStep
    dsimp only
    split <;> split <;> rfl
  · unfold State.seekPreambleEndStep
    dsimp only
    split
    · rfl
    · split <;> rfl
  · unfold State.receivingStep
    dsimp only
    split
    · unfold State.checkHalf
      dsimp only
      split
      · rfl
      · split
        · unfold State.closeByte; dsimp only; split <;> rfl
        · rfl
    · unfold State.dataHalf
      dsimp only
      split
      · unfold State.closeByte; dsimp only; split <;> rfl
      · rfl
section frame
variable (b : Bool) (s : State)
@[simp] theorem State.fsmStep_cfg : (s.fsmStep b).cfg = s.cfg := by rw [s.fsmStep_frame b]; rfl
@[simp] theorem State.fsmStep_filtI : (s.fsmStep b).filtI = s.filtI := by rw [s.fsmStep_frame b]; rfl
@[simp] theorem State.fsmStep_filtQ : (s.fsmStep b).filtQ = s.filtQ := by rw [s.fsmStep_frame b]; rfl
@[simp] theorem State.fsmStep_decimPhase : (s.fsmStep b).decimPhase = s.decimPhase := by
  rw [s.fsmStep_frame b]; rfl
@[simp] theorem State.fsmStep_env : (s.fsmStep b).env = s.env := by rw [s.fsmStep_frame b]; rfl
@[simp] theorem State.fsmStep_base : (s.fsmStep b).base = s.base := by rw [s.fsmStep_frame b]; rfl
@[simp] theorem State.fsmStep_lastBit : (s.fsmStep b).lastBit = s.lastBit := by rw [s.fsmStep_frame b]; rfl
@[simp] theorem State.fsmStep_sampleIdx : (s.fsmStep b).sampleIdx = s.sampleIdx := by
  rw [s.fsmStep_frame b]; rfl
@[simp] theorem State.fsmStep_nextDecision : (s.fsmStep b).nextDecision = s.nextDecision := by
  rw [s.fsmStep_frame b]; rfl
@[simp] theorem State.fsmStep_halted : (s.fsmStep b).halted = s.halted := by rw [s.fsmStep_frame b]; rfl
@[simp] theorem State.fsmStep_haltCause : (s.fsmStep b).haltCause = s.haltCause := by
  rw [s.fsmStep_frame b]; rfl
@[simp] theorem State.fsmStep_refused : (s.fsmStep b).refused = s.refused := by rw [s.fsmStep_frame b]; rfl
@[simp] theorem State.fsmStep_port : (s.fsmStep b).port = s.port := by rw [s.fsmStep_frame b]; rfl
@[simp] theorem State.fsmStep_tapCount : (s.fsmStep b).tapCount = s.tapCount := by
  rw [s.fsmStep_frame b]; rfl
/-- Every bit the machine consumes becomes the previous bit (R261). -/
@[simp] theorem State.fsmStep_prevBit : (s.fsmStep b).prevBit = b := rfl
end frame

theorem State.closeByte_history (s : State) :
    ∃ l, FramingEvents l ∧ s.closeByte.history = s.history ++ l := by
  rcases s.closeByte_cases with ⟨_, h⟩ | ⟨_, h⟩
  · exact ⟨_, .packet (s.pkt.setIfInBounds s.fill s.acc), by rw [h, State.deliver_history]; simp⟩
  · exact ⟨_, .none, by rw [h]; simp⟩

/-- The events of one `FSM_STEP` (R310). -/
theorem State.fsmStep_history (b : Bool) (s : State) :
    ∃ l, FramingEvents l ∧ (s.fsmStep b).history = s.history ++ l := by
  rcases s.fsmStep_cases b with ⟨_, h⟩ | ⟨_, h⟩ | ⟨_, h⟩ <;> rw [h, State.setPrevBit_history]
  · rcases s.seekPreambleStep_cases b with ⟨_, e⟩ | ⟨_, e⟩ <;> rw [e]
    · exact ⟨_, .preambleSeen, rfl⟩
    · exact ⟨_, .none, by simp⟩
  · rcases s.seekPreambleEndStep_cases b with ⟨_, e⟩ | ⟨_, _, e⟩ | ⟨_, _, e⟩ <;> rw [e]
    · exact ⟨_, .malformedTerminator, rfl⟩
    · exact ⟨_, .frameStart, rfl⟩
    · exact ⟨_, .none, by simp⟩
  · rcases s.receivingStep_cases b with ⟨_, e⟩ | ⟨_, e⟩ <;> rw [e, State.flipParity_history]
    · rcases s.dataHalf_cases b with ⟨_, _, d⟩ | ⟨_, d⟩ <;> rw [d]
      · exact (s.shiftIn b).closeByte_history
      · exact ⟨_, .none, by simp [State.shiftIn]⟩
    · rcases s.checkHalf_cases b with ⟨_, d⟩ | ⟨_, _, _, d⟩ | ⟨_, _, d⟩ <;> rw [d]
      · exact ⟨_, .manchesterViolation, rfl⟩
      · exact s.closeByte_history
      · exact ⟨_, .none, by simp⟩

end Sys2Proof.Machine
end

