-- ==== Sys2Proof/Laws/PerInstr.lean ====
section
/-!
SUPPORT. A law of every transaction, one lemma per constructor: its encoded word matches its row of the opcode
table under the row's mask (30_encoding.md R117).
-/

/-- The encoded word, under its row's mask, is the row's match word. -/
def Sys2Proof.Laws.MatchesRow.Statement (i : Sys2Proof.Instr) : Prop :=
  Sys2Proof.encode i &&& i.rowMask = i.rowMatch

theorem Sys2Proof.Laws.MatchesRow.rawSample (ib qb : Sys2Proof.Byte) :
    Sys2Proof.Laws.MatchesRow.Statement (.rawSample ib qb) := by
  apply BitVec.eq_of_getLsbD_eq
  intro k hk
  rw [BitVec.getLsbD_and, Sys2Proof.encode_rawSample_getLsbD]
  by_cases h : k < 16
  · have hm : (Sys2Proof.Instr.rowMask (.rawSample ib qb)).getLsbD k = false :=
      (by decide : ∀ j, j < 16 → (0x3FFFFFFFFFFFF0000#66).getLsbD j = false) k h
    rw [hm, Bool.and_false]
    exact (BitVec.getLsbD_zero (w := 66) (i := k)).symm
  · rw [if_neg (by omega), if_neg h, Bool.false_and]
    exact (BitVec.getLsbD_zero (w := 66) (i := k)).symm

theorem Sys2Proof.Laws.MatchesRow.cplxDecimated (iv qv : BitVec 32) :
    Sys2Proof.Laws.MatchesRow.Statement (.cplxDecimated iv qv) := by
  apply BitVec.eq_of_getLsbD_eq
  intro k hk
  rw [BitVec.getLsbD_and, Sys2Proof.encode_cplxDecimated_getLsbD]
  by_cases h : k < 64
  · have hm : (Sys2Proof.Instr.rowMask (.cplxDecimated iv qv)).getLsbD k = false :=
      (by decide : ∀ j, j < 64 → (0x30000000000000000#66).getLsbD j = false) k h
    have hr : (Sys2Proof.Instr.rowMatch (.cplxDecimated iv qv)).getLsbD k = false :=
      (by decide : ∀ j, j < 64 → (0x10000000000000000#66).getLsbD j = false) k h
    rw [hm, hr, Bool.and_false]
  · rw [if_neg (by omega), if_neg h]
    have h' : k = 64 ∨ k = 65 := by omega
    show (decide (k = 64) && (0x30000000000000000#66).getLsbD k) = (0x10000000000000000#66).getLsbD k
    rcases h' with rfl | rfl <;> decide
end

