-- ==== Sys2Proof/Laws/Pipeline.lean ====
section
/-!
SUPPORT. What the slicer, the decimated path, the filter pair and the transactions can do
(43_bit_slicer.md R210 to R222, 40_transactions.md R140 to R144): one lemma for each shared operation.
-/

namespace Sys2Proof.Machine

section averages
variable (s : State)
@[simp] theorem State.setAverage_env (a : RunningAverage) : s.setAverage .env a = { s with env := a } := rfl
@[simp] theorem State.setAverage_base (a : RunningAverage) : s.setAverage .base a = { s with base := a } := rfl
@[simp] theorem State.average_env : s.average .env = s.env := rfl
@[simp] theorem State.average_base : s.average .base = s.base := rfl
@[simp] theorem Average.window_env (c : Config) : Average.env.window c = c.wEnv := rfl
@[simp] theorem Average.window_base (c : Config) : Average.base.window c = c.wBase := rfl
@[simp] theorem State.setFilter_inPhase (f : FilterState) : s.setFilter .inPhase f = { s with filtI := f } := rfl
@[simp] theorem State.setFilter_quadrature (f : FilterState) :
    s.setFilter .quadrature f = { s with filtQ := f } := rfl
@[simp] theorem State.filter_inPhase : s.filter .inPhase = s.filtI := rfl
@[simp] theorem State.filter_quadrature : s.filter .quadrature = s.filtQ := rfl
end averages

/-- The two averages in cascade (R212): the envelope takes the power, the baseline the envelope's mean. -/
theorem State.averagePower_eq (p : NUM) (s : State) :
    let e := s.env.update s.cfg.num s.cfg.raMode s.cfg.wEnv p
    let m := s.base.update s.cfg.num s.cfg.raMode s.cfg.wBase e.2
    s.averagePower p = ({ s with env := e.1, base := m.1 }, e.2, m.2) := rfl

/-- `RA_UPDATE` keeps the window's length, and writes one slot (R210). -/
@[simp] theorem RunningAverage.update_buf_length (d : NumDomain) (m : RaMode) (w : Nat) (v : NUM)
    (r : RunningAverage) : (r.update d m w v).1.buf.length = r.buf.length := by
  simp [RunningAverage.update]

/-- Re-anchoring (R221): a transition moves the next decision; the raw bit is kept in any case. -/
theorem State.reanchor_eq (b : Bool) (s : State) :
    s.reanchor b = { s with
      nextDecision := if b = s.lastBit then s.nextDecision else s.cfg.addW s.sampleIdx (s.cfg.spb / 2),
      lastBit := b } := by
  unfold State.reanchor isTransition
  by_cases h : b = s.lastBit
  · subst h; simp [State.setLastBit]
  · simp [h, State.setLastBit]

/-- The decision test (R222). -/
theorem State.takeDecision_cases (b : Bool) (s : State) :
    (s.sampleIdx = s.nextDecision ∧ s.takeDecision b =
      { (s.trace (.bit b)).fsmStep b with nextDecision := s.cfg.addW s.nextDecision s.cfg.spb }) ∨
    (s.sampleIdx ≠ s.nextDecision ∧ s.takeDecision b = s) := by
  by_cases h : s.sampleIdx = s.nextDecision
  · refine .inl ⟨h, ?_⟩
    simp [State.takeDecision, h]
  · exact .inr ⟨h, by simp [State.takeDecision, h]⟩

/-- `SLICE` once the raw bit is known (R220 to R222), in one case each for a sample that is a decision sample
and one that is not. -/
theorem State.sliceBit_cases (b : Bool) (s : State) :
    (s.sampleIdx = (s.reanchor b).nextDecision ∧ s.sliceBit b =
      { ((s.reanchor b).trace (.bit b)).fsmStep b with
        nextDecision := s.cfg.addW (s.reanchor b).nextDecision s.cfg.spb,
        sampleIdx := s.cfg.addW s.sampleIdx 1 }) ∨
    (s.sampleIdx ≠ (s.reanchor b).nextDecision ∧ s.sliceBit b =
      { s.reanchor b with sampleIdx := s.cfg.addW s.sampleIdx 1 }) := by
  have hi : (s.reanchor b).sampleIdx = s.sampleIdx := by rw [s.reanchor_eq b]
  have hc : (s.reanchor b).cfg = s.cfg := by rw [s.reanchor_eq b]
  rcases (s.reanchor b).takeDecision_cases b with ⟨h, e⟩ | ⟨h, e⟩
  · refine .inl ⟨hi ▸ h, ?_⟩
    simp [State.sliceBit, e, State.advanceIndex, hi, hc]
  · refine .inr ⟨hi ▸ h, ?_⟩
    simp [State.sliceBit, e, State.advanceIndex, hi, hc]

/-- What the decimated path may write (R144). -/
theorem State.sliceBit_frame (b : Bool) (s : State) : s.sliceBit b = s.withDecimated (s.sliceBit b) := by
  rcases s.sliceBit_cases b with ⟨_, h⟩ | ⟨_, h⟩ <;> rw [h, s.reanchor_eq b]
  · rw [State.fsmStep_frame]; rfl
  · rfl

/-- The raw bit of a decimated pair (R200, R220). -/
def State.pairBit (i q : NUM) (s : State) : Bool :=
  let r := s.averagePower (magnitude s.cfg.num i q)
  rawBit s.cfg.num r.2.1 r.2.2

theorem State.decimatedPath_eq (i q : NUM) (s : State) :
    s.decimatedPath i q = (s.averagePower (magnitude s.cfg.num i q)).1.sliceBit (s.pairBit i q) := rfl

/-- The decimated path writes the averages, the slicer, the framing machine and the history (R144). -/
theorem State.decimatedPath_frame (i q : NUM) (s : State) :
    s.decimatedPath i q = s.withDecimated (s.decimatedPath i q) := by
  rw [s.decimatedPath_eq, State.sliceBit_frame]; rfl

/-- The events of one decimated sample: none, or a bit decision and the framing machine's (R310). -/
theorem State.sliceBit_history (b : Bool) (s : State) :
    ∃ l, (l = [] ∨ ∃ f, FramingEvents f ∧ l = .trace (.bit b) :: f) ∧
      (s.sliceBit b).history = s.history ++ l := by
  rcases s.sliceBit_cases b with ⟨_, h⟩ | ⟨_, h⟩ <;> rw [h]
  · obtain ⟨f, hf, e⟩ := State.fsmStep_history b ((s.reanchor b).trace (.bit b))
    refine ⟨_, .inr ⟨f, hf, rfl⟩, ?_⟩
    have hr : (s.reanchor b).history = s.history := by rw [s.reanchor_eq b]
    show (State.fsmStep b _).history = _
    rw [e, State.trace_history, hr, List.append_assoc, List.singleton_append]
  · exact ⟨[], .inl rfl, by simp [s.reanchor_eq b]⟩

/-- `DECIMATE` (R182): the phase counts up, or starts again with a decimated sample. -/
theorem State.decimate_cases (s : State) :
    (s.decimPhase + 1 = s.cfg.decim ∧ s.decimate = { s with decimPhase := 0 }.decimatedSample) ∨
    (s.decimPhase + 1 ≠ s.cfg.decim ∧ s.decimate = { s with decimPhase := s.decimPhase + 1 }) := by
  by_cases h : s.decimPhase + 1 = s.cfg.decim
  · exact .inl ⟨h, if_pos h⟩
  · exact .inr ⟨h, if_neg h⟩

/-- What a RAW_SAMPLE may write (R140). -/
theorem State.rawSample_frame (ib qb : Byte) (s : State) : s.rawSample ib qb = s.withRaw (s.rawSample ib qb) := by
  unfold State.rawSample
  split <;> simp only [State.filterPut, State.filter, State.setFilter]
  all_goals
    rcases State.decimate_cases _ with ⟨_, h⟩ | ⟨_, h⟩ <;> rw [h]
    · unfold State.decimatedSample
      split <;> rw [State.decimatedPath_frame] <;> rfl
    · rfl

theorem State.cplxDecimated_frame (iv qv : BitVec 32) (s : State) :
    s.cplxDecimated iv qv = s.withDecimated (s.cplxDecimated iv qv) :=
  s.decimatedPath_frame _ _

/-- What a presented transaction comes to (R303, R305). -/
theorem accept_cases (refusal : Option RefusalReason) (run : State → State) (s : State) :
    (s.halted = true ∧ accept refusal run s = .fault (.halted s.haltCause)) ∨
    (s.halted = false ∧ ∃ r, refusal = some r ∧ accept refusal run s = .next (s.markRefused r)) ∨
    (s.halted = false ∧ refusal = none ∧ accept refusal run s = .next (run s)) := by
  unfold accept
  cases s.halted <;> cases refusal <;> simp

/-- Everything a step can do, if it answers a next state (R311, R85): it idles, takes a reset or an abort, marks
a refusal, or runs one accepted transaction. -/
theorem step_cases {s s' : State} (h : step s = .next s') :
    (s.nextInput = .none ∧ s' = s.consume) ∨
    (∃ r, s.nextInput = .reset r ∧ s' = s.consume.takeReset r) ∨
    (∃ c, s.nextInput = .abort c ∧ s' = s.consume.takeAbort c) ∨
    (∃ T r, s.nextInput = .txn T ∧ s.halted = false ∧ s' = s.consume.markRefused r) ∨
    (∃ T ib qb, s.nextInput = .txn T ∧ decode T = .ok (.rawSample ib qb) ∧ s.halted = false ∧
      rawRefusal s.cfg = none ∧ s' = s.consume.rawSample ib qb) ∨
    (∃ T iv qv, s.nextInput = .txn T ∧ decode T = .ok (.cplxDecimated iv qv) ∧ s.halted = false ∧
      cplxRefusal s.cfg iv qv = none ∧ s' = s.consume.cplxDecimated iv qv) := by
  unfold step at h
  cases hn : s.nextInput with
  | none =>
    rw [hn] at h
    simp only [idle] at h
    split at h
    · cases h
    · exact .inl ⟨rfl, by simpa using h.symm⟩
  | reset r => rw [hn] at h; exact .inr (.inl ⟨r, rfl, by simpa using h.symm⟩)
  | abort c => rw [hn] at h; exact .inr (.inr (.inl ⟨c, rfl, by simpa using h.symm⟩))
  | txn T =>
    rw [hn] at h
    refine .inr (.inr (.inr ?_))
    simp only [runWord] at h
    cases hd : decode T with
    | error r =>
      rw [hd] at h
      simp only [rejectWord] at h
      rcases accept_cases (some (wordRefusal s.consume.cfg r)) id s.consume with
        ⟨_, e⟩ | ⟨hh, r', _, e⟩ | ⟨_, hr, _⟩
      · rw [e] at h; cases h
      · rw [e] at h; exact .inl ⟨T, r', rfl, by simpa using hh, by simpa using h.symm⟩
      · cases hr
    | ok i =>
      rw [hd] at h
      cases i with
      | rawSample ib qb =>
        simp only [exec, execRawSample] at h
        rcases accept_cases (rawRefusal s.consume.cfg) (State.rawSample ib qb) s.consume with
          ⟨_, e⟩ | ⟨hh, r', _, e⟩ | ⟨hh, hr, e⟩
        · rw [e] at h; cases h
        · rw [e] at h; exact .inl ⟨T, r', rfl, by simpa using hh, by simpa using h.symm⟩
        · rw [e] at h
          exact .inr (.inl ⟨T, ib, qb, rfl, hd, by simpa using hh, by simpa using hr, by simpa using h.symm⟩)
      | cplxDecimated iv qv =>
        simp only [exec, execCplxDecimated] at h
        rcases accept_cases (cplxRefusal s.consume.cfg iv qv) (State.cplxDecimated iv qv) s.consume with
          ⟨_, e⟩ | ⟨hh, r', _, e⟩ | ⟨hh, hr, e⟩
        · rw [e] at h; cases h
        · rw [e] at h; exact .inl ⟨T, r', rfl, by simpa using hh, by simpa using h.symm⟩
        · rw [e] at h
          exact .inr (.inr ⟨T, iv, qv, rfl, hd, by simpa using hh, by simpa using hr, by simpa using h.symm⟩)

end Sys2Proof.Machine
end

