-- ==== Sys2Proof/Tests/Slice0.lean ====
section
/-!
SUPPORT. Tests: the checks of WellFormed refuse ill-formed terms, written-out words decode as the spec's encoding
says, one step gives what the spec's examples give (95_test_vectors.md and the rules' own examples), and every
obligation with hypotheses has a witness that meets them together.
-/

namespace Sys2Proof.Machine.Tests

/-! ## WellFormed -/

theorem test_reference_well_formed : Config.reference.wellFormed = true := by decide +kernel

theorem test_refuses_decim_zero : Config.wellFormed { Config.reference with decim := 0 } = false := by decide +kernel
/-- X6. -/
theorem test_refuses_spb_zero : Config.wellFormed { Config.reference with spb := 0 } = false := by decide +kernel
/-- `cfg_spb_fits` at its boundary: `SPB = 2^W_CNT`. -/
theorem test_refuses_spb_too_wide : Config.wellFormed { Config.reference with spb := 4, wCnt := 2 } = false := by
  decide +kernel
theorem test_refuses_min_zero : Config.wellFormed { Config.reference with minTrans := 0 } = false := by decide +kernel
/-- X7. -/
theorem test_refuses_mode_four : Config.wellFormed { Config.reference with debugMode := 4 } = false := by decide +kernel
theorem test_refuses_short_table :
    Config.wellFormed { Config.reference with iqConv := testIqConv.drop 1 } = false := by decide +kernel
theorem test_refuses_infinite_table :
    Config.wellFormed { Config.reference with iqConv := testIqConv.set 7 (.f32 (.val 0x7F800000#32)) } = false := by
  decide +kernel
/-- Both domains are legal values (`cfg_num`), but a constant must be one of the session's domain. -/
theorem test_refuses_other_domain : Config.wellFormed { Config.reference with num := .exact } = false := by
  decide +kernel
theorem test_refuses_nb_zero : Config.wellFormed { Config.reference with nb := 0, b := [] } = false := by decide +kernel
theorem test_refuses_nan_coefficient :
    Config.wellFormed { Config.reference with b := [.f32 .nan] } = false := by decide +kernel
theorem test_refuses_na_zero : Config.wellFormed { Config.reference with na := 0 } = false := by decide +kernel
theorem test_refuses_infinite_feedback :
    Config.wellFormed { Config.reference with na := 2, a := [.f32 (.val 0xFF800000#32)] } = false := by decide +kernel
/-- Both values are legal (`cfg_ra_mode`), so the check refuses nothing. -/
theorem test_admits_both_ra_modes :
    Config.cfgRaMode { Config.reference with raMode := .partialWindow } = true ∧ Config.reference.cfgRaMode = true := by
  decide
theorem test_refuses_wcnt_one : Config.wellFormed { Config.reference with spb := 1, wCnt := 1 } = false := by
  decide +kernel
/-- R115 check 4: an infinity and a NaN are no well-formed operands; the largest finite value is one. -/
theorem test_refuses_nonfinite_pair :
    Instr.wellFormed (.cplxDecimated 0x7F800000#32 0#32) = false ∧
    Instr.wellFormed (.cplxDecimated 0#32 0xFFC00000#32) = false ∧
    Instr.wellFormed (.cplxDecimated 0x7F7FFFFF#32 0x00000001#32) = true := by decide

/-! ## Words written out from R112 and R113 -/

/-- `00`, 48 zeros, `qb = 1011 0010`, `ib = 0100 0001`. -/
theorem test_decode_raw_bits :
    decode (0b00#2 ++ 0#48 ++ 0b10110010#8 ++ 0b01000001#8) = .ok (.rawSample 0x41#8 0xB2#8) := by decide
/-- `01`, `qv` with sign 1, exponent 126, fraction 1, `iv` with sign 0, exponent 127, fraction 0. -/
theorem test_decode_cplx_bits :
    decode (0b01#2 ++ (1#1 ++ 126#8 ++ 1#23) ++ (0#1 ++ 127#8 ++ 0#23)) =
      .ok (.cplxDecimated 0x3F800000#32 0xBF000001#32) := by decide
theorem test_decode_reserved_kinds :
    decode (0b10#2 ++ 0#64) = .error .reservedKind ∧ decode (0b11#2 ++ 0#64) = .error .reservedKind := by decide
/-- Bits 16 and 63, the ends of the reserved field. -/
theorem test_decode_reserved_bits :
    decode 0x00000000000010000#66 = .error .reservedBits ∧ decode 0x08000000000000000#66 = .error .reservedBits := by
  decide
/-- The words of R121 by the table's numbering. -/
theorem test_decode_table_words :
    decodeTableWord 72 0x00000000000008080 = some (.rawSample 0x80#8 0x80#8) ∧
    decodeTableWord 72 0x13F80000000000000 = some (.cplxDecimated 0#32 0x3F800000#32) ∧
    decodeTableWord 72 0x400000000000000000 = none := by decide
theorem test_encode_words :
    encode (.rawSample 0xFF#8 0x00#8) = 0x000000000000000FF#66 ∧
    encode (.cplxDecimated 0x3F000000#32 0x3F000000#32) = 0x13F0000003F000000#66 := by decide

/-! ## One step -/

/-- The reference configuration in another debug mode. -/
def inMode (m : Nat) : Config := { Config.reference with debugMode := m }

/-- A session just started in debug mode `m`, with one presentation on the port. -/
def presented (m : Nat) (p : Presented) : State := { State.initial (inMode m) with port := [p] }

/-- The state of a next outcome. -/
def after (o : Host.Outcome State Fault Refusal) : Option State :=
  match o with
  | .next t => some t
  | _ => none

/-- R144's example: `CPX 0.0, 0.0` just after reset takes the decision `0` at sample index 0 (R220: and leaves
`next_decision = SPB` and `sample_idx = 1`). -/
theorem test_cplx_zero_after_reset :
    (after (step (presented 2 (.ofTxn 0x10000000000000000#66)))).map
      (fun t => (t.traces, t.nextDecision, t.sampleIdx)) = some ([.bit false], 4, 1) := by decide +kernel
/-- R227: a first raw bit `1` moves the first decision to sample `SPB div 2`. -/
theorem test_cplx_one_after_reset :
    (after (step (presented 2 (.ofTxn 0x1000000003F800000#66)))).map
      (fun t => (t.traces, t.nextDecision, t.lastBit)) = some ([], 2, true) := by decide +kernel
/-- P3, transaction 1: `TAP_CONV(-1, 0)`, `BIT(1)`, `PREAMBLE_SEEN`, and `y_I = -1/2`. -/
theorem test_raw_p3_first :
    (after (exec (.rawSample 0x00#8 0x80#8) (State.initial
      { Config.reference with debugMode := 1, spb := 1, minTrans := 1, b := [.f32 (.val 0x3F000000#32)], na := 2,
                              a := [.f32 (.val 0xBF000000#32)] }))).map (fun t => (t.history, t.filtI.y)) =
      some ([.out (.tapConv (.binary32 0xBF800000#32) (.binary32 0x00000000#32)), .trace (.bit true),
             .trace .preambleSeen], .f32 (.val 0xBF000000#32)) := by decide +kernel
/-- P2, transaction 1: with `DECIM = 2` only the filters and the phase change; `y_I = 127/256`. -/
theorem test_raw_p2_first :
    (after (exec (.rawSample 0xFF#8 0x80#8) (State.initial
      { Config.reference with debugMode := 3, decim := 2, nb := 2,
                              b := [.f32 (.val 0x3F000000#32), .f32 (.val 0x3F000000#32)] }))).map
      (fun t => (t.decimPhase, t.filtI.y, t.history, t.sampleIdx)) =
      some (1, .f32 (.val 0x3EFE0000#32), [], 0) := by decide +kernel
/-- The host's placement runs each row as the first instruction after reset. -/
theorem test_fetch_word :
    step (State.reset.withFetchWord 72 0x1000000003F800000) =
      exec (.cplxDecimated 0x3F800000#32 0#32) { State.reset with cfg := inMode 2 } ∧
    step (State.reset.withFetchWord 72 0x00000000000008080) = exec (.rawSample 0x80#8 0x80#8) State.reset :=
  ⟨rfl, rfl⟩

/-! ## Witnesses: states and operands that meet an obligation's hypotheses -/

theorem witness_decode_reads_back :
    Instr.wellFormed (.rawSample 0xFF#8 0x00#8) = true ∧
    Instr.wellFormed (.cplxDecimated 0xFF7FFFFF#32 0x00000001#32) = true := by decide
theorem witness_decoded_word : decode 0x0000000000000FF00#66 = .ok (.rawSample 0x00#8 0xFF#8) := by decide
/-- A word for each check of R115, at the end of each reserved range, and one that passes them all. -/
theorem witness_refusal_order :
    (State.initial (inMode 2)).halted = false ∧
    firstRefusal (inMode 2) (0b10#2 ++ 0#64) = some .reservedKind ∧
    firstRefusal (inMode 2) (0b11#2 ++ 0#64) = some .reservedKind ∧
    firstRefusal (inMode 2) (0b00#2 ++ 1#48 ++ 0#16) = some .kindNotInMode ∧
    firstRefusal (inMode 0) (0b00#2 ++ 1#48 ++ 0#16) = some .reservedBits ∧
    firstRefusal (inMode 2) (0b01#2 ++ 0#32 ++ 0x7F800000#32) = some .nonfinitePayload ∧
    firstRefusal (inMode 2) (0b01#2 ++ 0xFF800000#32 ++ 0#32) = some .nonfinitePayload ∧
    firstRefusal (inMode 2) 0x1000000003F800000#66 = none ∧
    firstRefusal (inMode 3) 0x00000000000008080#66 = none := by decide
theorem witness_step_runs :
    (presented 0 (.ofTxn 0x00000000000008080#66)).port =
      { reset := none, abort := 0#2, txn := some 0x00000000000008080#66 } :: [] ∧
    decode 0x00000000000008080#66 = .ok (.rawSample 0x80#8 0x80#8) ∧
    Instr.wellFormed (.rawSample 0x80#8 0x80#8) = true := by decide
/-- Presentations for each clause of the priority: with a reset, with an abort, with a transaction alone. -/
theorem witness_priority :
    (presented 0 ⟨some ⟨inMode 2, true⟩, 1#2, some 0#66⟩).port = ⟨some ⟨inMode 2, true⟩, 1#2, some 0#66⟩ :: [] ∧
    (presented 0 ⟨none, 1#2, some 0#66⟩).port = { reset := none, abort := 1#2, txn := some 0#66 } :: [] ∧
    (presented 0 ⟨none, 1#2, some 0#66⟩).halted = false ∧
    (presented 0 ⟨none, 0#2, some 0#66⟩).port = ⟨none, 0#2, some 0#66⟩ :: [] ∧
    (presented 0 ⟨some ⟨inMode 2, true⟩, 0#2, some 0#66⟩).port =
      { reset := some ⟨inMode 2, true⟩, abort := 0#2, txn := some 0#66 } :: [] ∧
    (inMode 2).wellFormed = true := by decide +kernel

/-- A block halted with cause 2. -/
def haltedState : State := { State.reset with halted := true, haltCause := 2#2 }

theorem witness_halted : haltedState.halted = true ∧ haltedState.port = [] := by decide
theorem witness_idle : State.reset.halted = false ∧ State.reset.port = [] := by decide
theorem witness_abort :
    (presented 0 ⟨none, 3#2, none⟩).port = { reset := none, abort := 3#2, txn := none } :: [] ∧
    { haltedState with port := [⟨none, 1#2, none⟩] }.port = { reset := none, abort := 1#2, txn := none } :: [] ∧
    { haltedState with port := [⟨none, 1#2, none⟩] }.halted = true ∧
    (presented 0 ⟨none, 2#2, none⟩).port = { reset := none, abort := 2#2, txn := none } :: [] ∧
    (presented 0 ⟨none, 2#2, none⟩).halted = false := by decide
theorem witness_reset :
    (inMode 3).wellFormed = true ∧ { haltedState with port := [⟨some ⟨inMode 3, true⟩, 0#2, none⟩] }.port =
      { reset := some ⟨inMode 3, true⟩, abort := 0#2, txn := none } :: [] := by decide +kernel
theorem witness_ill_reset :
    (⟨inMode 3, false⟩ : ResetInput).stable = false ∧ (⟨inMode 4, true⟩ : ResetInput).config.wellFormed = false ∧
    (presented 0 ⟨some ⟨inMode 4, true⟩, 0#2, none⟩).port =
      { reset := some ⟨inMode 4, true⟩, abort := 0#2, txn := none } :: [] := by decide +kernel
/-- A halted block that is presented another abort takes a step without a reset. -/
theorem witness_only_reset :
    let s := { haltedState with port := [⟨none, 1#2, none⟩] }
    s.halted = true ∧ (∀ r, s.nextInput ≠ .reset r) ∧ step s = .next haltedState :=
  ⟨rfl, fun _ h => (by cases h), rfl⟩
theorem witness_refused_stays :
    let s := { haltedState with port := [⟨none, 3#2, none⟩], refused := some .reservedBits }
    s.refused ≠ none ∧ step s = .next { haltedState with refused := some .abortCauseReserved } :=
  ⟨by decide, rfl⟩
theorem witness_config :
    let s := presented 2 (.ofTxn 0x10000000000000000#66)
    (∀ r, s.nextInput ≠ .reset r) ∧ (after (step s)).map State.sampleIdx = some 1 :=
  ⟨fun _ h => (by cases h), by decide +kernel⟩
/-- Modes 0, 1 and 3, with the phase at both sides of `DECIM`. -/
theorem witness_raw :
    (∀ m, m = 0 ∨ m = 1 ∨ m = 3 →
      let s := State.initial { inMode m with decim := 2 }
      s.halted = false ∧ (s.cfg.debugMode = 0 ∨ s.cfg.debugMode = 1 ∨ s.cfg.debugMode = 3) ∧
      s.decimPhase + 1 < s.cfg.decim ∧
      { s with decimPhase := 1 }.decimPhase + 1 = { s with decimPhase := 1 }.cfg.decim) := by
  rintro m (rfl | rfl | rfl) <;> decide
theorem witness_cplx :
    (State.initial (inMode 2)).halted = false ∧ (State.initial (inMode 2)).cfg.debugMode = 2 ∧
    finiteBits 0xFF7FFFFF#32 = true ∧ finiteBits 0x00000001#32 = true := by decide
theorem witness_unadmitted :
    (State.initial (inMode 2)).halted = false ∧ (inMode 2).debugMode = 2 ∧
    ¬((inMode 2).debugMode = 0 ∨ (inMode 2).debugMode = 1 ∨ (inMode 2).debugMode = 3) ∧ (inMode 3).debugMode ≠ 2 ∧
    (0x7F800000#32).extractLsb' 23 8 = 0xFF#8 ∧ (0xFFFFFFFF#32).extractLsb' 23 8 = 0xFF#8 := by decide
theorem witness_events :
    (after (exec (.rawSample 0x80#8 0x80#8) (State.initial (inMode 3)))).map (fun t => t.history.length) = some 2 := by
  decide +kernel
theorem witness_taps : ∀ m, m = 0 ∨ m = 1 ∨ m = 3 →
    (after (exec (.rawSample 0x80#8 0x80#8)
      { State.reset with cfg := { State.reset.cfg with debugMode := m } })).isSome = true := by
  rintro m (rfl | rfl | rfl) <;> decide +kernel
theorem witness_finite : finiteBits 0x00000001#32 = true ∧ finiteBits 0x7F7FFFFF#32 = true := by decide
/-- The ends of the NaN patterns, and of the patterns that are none. -/
theorem witness_tap_values :
    nanBits 0x7F800000#32 = false ∧ nanBits 0xFF800000#32 = false ∧ F32.isNan (.val 0x7F800001#32) = true ∧
    F32.isNan (.val 0xFFFFFFFF#32) = true ∧ F32.isNan .nan = true := by decide
/-- Divisors that are and are not zero, of both signs, and integer divisors at both ends. -/
theorem witness_division :
    ratOfBits 0x00000001#32 ≠ 0 ∧ ratOfBits 0xFF7FFFFF#32 ≠ 0 ∧ ratOfBits 0x80000000#32 = 0 ∧ ratOfBits 0x00000000#32 = 0 ∧
    (1 ≤ 1 ∧ 1 ≤ 2 ^ 24) ∧ (1 ≤ 2 ^ 24 ∧ 2 ^ 24 ≤ 2 ^ 24) := by decide +kernel
/-- The smallest magnitude that overflows, and half a unit less. -/
theorem witness_overflow :
    (2 ^ 128 - 2 ^ 103 : Rat) ≤ |2 ^ 128 - 2 ^ 103| ∧ |(2 ^ 128 - 2 ^ 103 - 1 / 2 : Rat)| < 2 ^ 128 - 2 ^ 103 := by
  constructor <;> norm_num

/-- An exact-rational session: an IIR filter, `SPB = 1`. -/
def exactConfig : Config :=
  { Config.reference with num := .exact, iqConv := (List.range 256).map fun k => .exact k, nb := 2,
                          b := [.exact 1, .exact 2], na := 2, a := [.exact 3], spb := 1 }

/-- A session with another codec (R9, I20): pattern 1 is three halves. -/
def codecConfig : Config := { exactConfig with debugMode := 2, bypassCodec := .table [(0x00000001#32, 3 / 2), (0x00000002#32, 5), (0x00000002#32, 6)] }

theorem witness_codec :
    codecConfig.wellFormed = true ∧ codecConfig.num = .exact ∧
    ∃ entries, codecConfig.bypassCodec = .table entries ∧ entries.lookup 0x00000001#32 = some (3 / 2) ∧
      entries.lookup 0x00000002#32 = some 5 ∧ entries.lookup 0x00000003#32 = none :=
  ⟨by decide +kernel, by decide +kernel, _, rfl, by decide +kernel, by decide +kernel, by decide +kernel⟩
/-- A listed pattern reads as its first entry, and an unlisted one as the reference codec reads it. -/
theorem test_codec_table :
    decodeNum codecConfig 0x00000001#32 = .exact (3 / 2) ∧ decodeNum codecConfig 0x00000002#32 = .exact 5 ∧
    decodeNum codecConfig 0x3F000000#32 = .exact (1 / 2) := by
  decide +kernel

theorem witness_reference_codec : exactConfig.num = .exact ∧ exactConfig.bypassCodec = .binary32Pair := by decide
theorem witness_exact_session :
    exactConfig.wellFormed = true ∧ exactConfig.num = .exact ∧ 2 < ([5, 6, 7] : List Rat).length := by decide +kernel
/-- Both lanes, and an IIR filter in the exact domain. -/
theorem witness_filter_put (ch : Channel) :
    State.reset.cfg.wellFormed = true ∧ (State.reset.filter ch).Fits State.reset.cfg ∧
    exactConfig.wellFormed = true ∧ ((State.initial exactConfig).filter ch).Fits exactConfig := by
  refine ⟨by decide +kernel, ?_, by decide +kernel, ?_⟩
  · cases ch <;> exact ⟨by decide, by decide, by decide, by decide, by decide⟩
  · cases ch <;> exact ⟨by decide, by decide, by decide +kernel, by decide +kernel, by decide⟩
theorem witness_phase : State.reset.decimPhase < State.reset.cfg.decim := by decide
theorem witness_den : 0 < 1 ∧ 0 < 2 ^ 149 := by decide +kernel
/-- `1 + 1/2`, `1 - 1/2` and `1 * 1/2` are representable. -/
theorem witness_representable :
    finiteBits 0x3F800000#32 = true ∧ finiteBits 0x3F000000#32 = true ∧ finiteBits 0x3FC00000#32 = true ∧
    ratOfBits 0x3FC00000#32 = ratOfBits 0x3F800000#32 + ratOfBits 0x3F000000#32 ∧
    ratOfBits 0x3F000000#32 = ratOfBits 0x3F800000#32 - ratOfBits 0x3F000000#32 ∧
    ratOfBits 0x3F000000#32 = ratOfBits 0x3F800000#32 * ratOfBits 0x3F000000#32 := by decide +kernel
/-- IEEE 754 roundTiesToEven (R170) below the least subnormal: three quarters of it rounds to it, half of it to zero. -/
theorem test_round_below_least_subnormal : roundUnits 3 4 = 1 ∧ roundUnits 1 2 = 0 ∧ roundUnits 1 4 = 0 := by
  decide +kernel
/-- R225 and vector O1: a tie of infinities gives 0. -/
theorem test_infinite_tie : rawBit .binary32 (.f32 (.val 0x7F800000#32)) (.f32 (.val 0x7F800000#32)) = false := by decide
theorem witness_comparison : F32.isNan .nan = true ∧ F32.isNan (.val 0x7F800001#32) = true := by decide
theorem witness_average : State.reset.env.Fits .binary32 4 :=
  ⟨by decide, by decide, by decide, by decide, by decide⟩
theorem witness_exact_average :
    (RunningAverage.initial .exact 2).Fits .exact 2 ∧
    (RunningAverage.initial .exact 2).sum.toRat = ((RunningAverage.initial .exact 2).buf.map NUM.toRat).sum ∧
    NUM.inDomain .exact (.exact 5) = true :=
  ⟨⟨by decide, by decide +kernel, by decide, by decide, by decide⟩, by decide +kernel, by decide⟩
theorem witness_window : 1 ≤ 1 ∧ 1 ≤ 4 := by decide
/-- Slicer states at both ends of the distance to the next decision, with `SPB = 4` and with `SPB = 1`; a
transition has a raw bit unlike the last one. -/
theorem witness_slicer :
    (State.initial (inMode 2)).cfg.wellFormed = true ∧ (State.initial (inMode 2)).SlicerInv ∧
    State.SlicerInv { State.initial (inMode 2) with sampleIdx := 2 ^ 32 - 1, nextDecision := 2 } ∧
    true ≠ (State.initial (inMode 2)).lastBit ∧ 2 ≤ (inMode 2).spb ∧
    { inMode 2 with spb := 1 }.wellFormed = true ∧ (State.initial { inMode 2 with spb := 1 }).SlicerInv :=
  ⟨by decide +kernel, ⟨by decide, by decide, by decide⟩, ⟨by decide +kernel, by decide, by decide +kernel⟩, by decide,
   by decide, by decide +kernel, ⟨by decide, by decide, by decide⟩⟩
theorem witness_nan_sum :
    ({ State.reset with env := { State.reset.env with sum := .f32 .nan } } : State).cfg.num = .binary32 ∧
    ({ State.reset with env := { State.reset.env with sum := .f32 .nan } } : State).env.sum = .f32 .nan := by decide

/-- A framing state. -/
def framing (f : FsmState) (parity lhc : Bool) (bitCnt fill : Nat) : State :=
  { State.initial { inMode 2 with lastHalfCheck := lhc } with
    fsmState := f, parity := parity, bitCnt := bitCnt, fill := fill }

theorem witness_preamble :
    (framing .seekPreamble false false 0 0).fsmState = .seekPreamble ∧ (framing .seekPreamble false false 0 0).transCnt = 0 ∧
    1 ≤ (framing .seekPreamble false false 0 0).cfg.minTrans ∧ true ≠ (framing .seekPreamble false false 0 0).prevBit ∧
    (framing .seekPreamble false false 0 0).transCnt + 1 ≠ 21 ∧
    { framing .seekPreamble false false 0 0 with transCnt := 20 }.transCnt + 1 = 21 := by decide
theorem witness_terminator :
    (framing .seekPreambleEnd false false 0 0).fsmState = .seekPreambleEnd ∧
    (framing .seekPreambleEnd false false 0 0).zeroCnt ≠ 3 ∧
    { framing .seekPreambleEnd false false 0 0 with zeroCnt := 3 }.zeroCnt = 3 := by decide
/-- A data half that closes no byte, and one that closes the ninth byte (the last before delivery). -/
theorem witness_data_half :
    (framing .receiving false false 6 0).fsmState = .receiving ∧ (framing .receiving false false 6 0).parity = false ∧
    (framing .receiving false false 6 0).bitCnt ≠ 7 ∧ (framing .receiving false true 7 0).cfg.lastHalfCheck = true ∧
    (framing .receiving false false 7 8).cfg.lastHalfCheck = false ∧ (framing .receiving false false 7 8).bitCnt = 7 ∧
    (framing .receiving false false 7 8).fill + 1 < 10 := by decide
/-- A violation, a valid half, and a valid half that closes the ninth byte under `LAST_HALF_CHECK`. -/
theorem witness_check_half :
    (framing .receiving true false 1 0).fsmState = .receiving ∧ (framing .receiving true false 1 0).parity = true ∧
    false = (framing .receiving true false 1 0).prevBit ∧ true ≠ (framing .receiving true false 1 0).prevBit ∧
    ¬((framing .receiving true false 1 0).cfg.lastHalfCheck = true ∧ (framing .receiving true false 1 0).bitCnt = 8) ∧
    (framing .receiving true true 8 8).cfg.lastHalfCheck = true ∧ (framing .receiving true true 8 8).bitCnt = 8 ∧
    (framing .receiving true true 8 8).fill + 1 < 10 := by decide
theorem witness_tenth_byte :
    (framing .receiving false false 7 9).fsmState = .receiving ∧ (framing .receiving false false 7 9).fill = 9 ∧
    ((framing .receiving false false 7 9).cfg.lastHalfCheck = false ∧ (framing .receiving false false 7 9).parity = false ∧
      (framing .receiving false false 7 9).bitCnt = 7) ∧
    ((framing .receiving true true 8 9).cfg.lastHalfCheck = true ∧ (framing .receiving true true 8 9).parity = true ∧
      (framing .receiving true true 8 9).bitCnt = 8 ∧ true ≠ (framing .receiving true true 8 9).prevBit) := by decide
/-- Both sides of the entry to `Receiving`. -/
theorem witness_parity :
    (framing .receiving true false 1 0).fsmState = .receiving ∧
    (State.fsmStep false { framing .seekPreambleEnd true false 0 0 with zeroCnt := 3 }).fsmState = .receiving ∧
    (State.fsmStep true (framing .seekPreambleEnd true false 0 0)).fsmState ≠ .receiving := by decide

/-- The data halves are zeros, every check half a one: `n` halves. -/
def zeroHalves (n : Nat) : List Bool := (List.range n).map fun k => k % 2 == 1

theorem witness_valid_frame (lhc : Bool) :
    (framing .receiving false lhc 0 0).fsmState = .receiving ∧
    (zeroHalves (if lhc then 160 else 159)).length = (if lhc then 160 else 159) ∧
    ∀ j, 2 * j + 1 < 160 → 2 * j + 1 < (if lhc then 160 else 159) →
      (zeroHalves (if lhc then 160 else 159)).getD (2 * j + 1) false ≠
        (zeroHalves (if lhc then 160 else 159)).getD (2 * j) false := by
  have key : ∀ n, n = 159 ∨ n = 160 → ∀ j, 2 * j + 1 < n →
      (zeroHalves n).getD (2 * j + 1) false ≠ (zeroHalves n).getD (2 * j) false := by
    intro n _ j hj
    simp [zeroHalves, List.getD_eq_getElem?_getD, hj, show 2 * j < n by omega]
  refine ⟨rfl, by simp [zeroHalves], fun j _ hj => ?_⟩
  cases lhc
  · exact key 159 (.inl rfl) j hj
  · exact key 160 (.inr rfl) j hj
/-- A first pair `0, 0` fails, and so may the last pair that is examined. -/
theorem witness_violated_frame :
    (framing .receiving false false 0 0).fsmState = .receiving ∧ [false, false].length = 2 * 0 + 2 ∧
    [false, false].getD (2 * 0 + 1) false = [false, false].getD (2 * 0) false ∧
    (zeroHalves 157 ++ [false]).length = 2 * 78 + 2 ∧
    (∀ i, i < 78 → (zeroHalves 157 ++ [false]).getD (2 * i + 1) false ≠ (zeroHalves 157 ++ [false]).getD (2 * i) false) ∧
    (zeroHalves 157 ++ [false]).getD (2 * 78 + 1) false = (zeroHalves 157 ++ [false]).getD (2 * 78) false := by
  decide +kernel
theorem witness_receiving_ends :
    (framing .receiving false true 7 9).FramingInv ∧ (framing .receiving true false 0 1).FramingInv ∧
    (framing .receiving false true 7 9).fsmState = .receiving ∧ (zeroHalves 160).length = 160 :=
  ⟨⟨by decide, by decide, by decide, by decide, by decide, by decide, by decide, by decide, by decide, by decide⟩,
   ⟨by decide, by decide, by decide, by decide, by decide, by decide, by decide, by decide, by decide, by decide⟩,
   rfl, by simp [zeroHalves]⟩
theorem witness_streams :
    [1#8, 2#8][2 * 0]? = some 1#8 ∧ [1#8, 2#8][2 * 0 + 1]? = some 2#8 ∧
    8 * 0 + 8 ≤ [1#8, 2#8, 3#8, 4#8, 5#8, 6#8, 7#8, 8#8].length := by decide

/-- The first sample of a session, before the two invariants' step. -/
theorem reset_good :
    State.Inv (State.initial (inMode 2)) ∧ State.SampleClock (State.initial (inMode 2)) := by
  refine ⟨⟨by decide +kernel, ?_, ?_, by decide, ?_, ?_, ?_, ?_, ?_⟩, 0, by decide, by decide, by decide, by decide,
    by decide⟩
  · exact ⟨by decide, by decide, by decide, by decide, by decide⟩
  · exact ⟨by decide, by decide, by decide, by decide, by decide⟩
  · exact ⟨by decide, by decide, by decide, by decide, by decide⟩
  · exact ⟨by decide, by decide, by decide, by decide, by decide⟩
  · exact ⟨by decide, by decide, by decide⟩
  · exact ⟨by decide, by decide, by decide, by decide, by decide, by decide, by decide, by decide, by decide, by decide⟩
  · exact ⟨by decide, by decide⟩
theorem witness_invariant_step :
    ∃ s t : State, s.Inv ∧ s.SampleClock ∧ step s = .next t ∧ t.sampleIdx = 1 := by
  obtain ⟨⟨h1, h2, h3, h4, h5, h6, h7, h8, h9⟩, hc⟩ := reset_good
  exact ⟨presented 2 (.ofTxn 0x10000000000000000#66), _,
    ⟨h1, h2, h3, h4, h5, h6, ⟨h7.1, h7.2, h7.3⟩, ⟨h8.1, h8.2, h8.3, h8.4, h8.5, h8.6, h8.7, h8.8, h8.9, h8.10⟩, ⟨h9.1, h9.2⟩⟩,
    hc, rfl, by decide +kernel⟩

end Sys2Proof.Machine.Tests
end

/-!
# Byte streams as transactions

The decoder reads back each encoded transaction, field by field (30_encoding.md R110 to R113). The words of a byte
stream are one encoded transaction for every whole sample or pair, its bytes in the order of 20_memory.md R84, R86
and R88: the recursion takes one sample or pair off the front, so each position is found by induction on it.
-/

namespace Sys2Proof

section fields
variable (ib qb : Byte) (iv qv : BitVec 32)

@[simp] theorem rawReserved_encode_rawSample : rawReserved (encode (.rawSample ib qb)) = 0#48 := by
  apply BitVec.eq_of_getLsbD_eq
  intro k hk
  simp [rawReserved, encode_rawSample_getLsbD, show ¬16 + k < 8 by omega]

@[simp] theorem inPhaseByte_encode_rawSample : (encode (.rawSample ib qb)).extractLsb' 0 8 = ib := by
  apply BitVec.eq_of_getLsbD_eq
  intro k hk
  simp [encode_rawSample_getLsbD, hk]

@[simp] theorem quadratureByte_encode_rawSample : (encode (.rawSample ib qb)).extractLsb' 8 8 = qb := by
  apply BitVec.eq_of_getLsbD_eq
  intro k hk
  simp [encode_rawSample_getLsbD, hk, show 8 + k < 16 by omega]

@[simp] theorem inPhaseValue_encode_cplxDecimated : (encode (.cplxDecimated iv qv)).extractLsb' 0 32 = iv := by
  apply BitVec.eq_of_getLsbD_eq
  intro k hk
  simp [encode_cplxDecimated_getLsbD, hk]

@[simp] theorem quadratureValue_encode_cplxDecimated : (encode (.cplxDecimated iv qv)).extractLsb' 32 32 = qv := by
  apply BitVec.eq_of_getLsbD_eq
  intro k hk
  simp [encode_cplxDecimated_getLsbD, hk, show 32 + k < 64 by omega]

end fields

/-- The operands need not be finite: finiteness is checked where the transaction runs (R115 check 4). -/
theorem decode_encode (i : Instr) : decode (encode i) = .ok i := by
  cases i with
  | rawSample ib qb => simp [decode, kindField_encode, Instr.kind]
  | cplxDecimated iv qv => simp [decode, kindField_encode, Instr.kind]

end Sys2Proof

namespace Sys2Proof.Machine

/-! ## Raw streams (R84) -/

theorem rawWords_length (bytes : List Byte) : (rawWords bytes).length = bytes.length / 2 := by
  induction bytes using rawWords.induct with
  | case1 ib qb rest ih => simp only [rawWords, List.length_cons, ih]; omega
  | case2 bytes hshort =>
    have hlen : bytes.length < 2 := by
      by_contra hlen
      have hge : 2 ≤ bytes.length := Nat.not_lt.mp hlen
      match bytes with
      | ib :: qb :: rest => exact hshort ib qb rest rfl
    rw [rawWords.eq_2 bytes hshort, Nat.div_eq_of_lt hlen, List.length_nil]

theorem rawWords_getElem? {bytes : List Byte} {k : Nat} {lo hi : Byte} (hlo : bytes[2 * k]? = some lo)
    (hhi : bytes[2 * k + 1]? = some hi) : (rawWords bytes)[k]? = some (encode (.rawSample lo hi)) := by
  induction k generalizing bytes with
  | zero =>
    match bytes with
    | ib :: qb :: rest =>
      obtain rfl : ib = lo := by simpa using hlo
      obtain rfl : qb = hi := by simpa using hhi
      simp [rawWords]
  | succ k ih =>
    match bytes with
    | ib :: qb :: rest => simpa [rawWords] using ih (bytes := rest) hlo hhi

/-- Settles O55: the word at `k` is the encoding of the two bytes of sample `k`, and it decodes to them. -/
theorem rawStreamIsLittleEndian : Obligations.RawStreamIsLittleEndian := fun bytes =>
  ⟨rawWords_length bytes, fun _ lo hi hlo hhi =>
    ⟨encode (.rawSample lo hi), rawWords_getElem? hlo hhi, decode_encode (.rawSample lo hi)⟩⟩

/-! ## Bypass streams (R86) -/

/-- The four stream bytes from position `n` on are the value `v`, least significant byte first (R86). -/
def ValueAt (bytes : List Byte) (n : Nat) (v : BitVec 32) : Prop :=
  ∀ j, j < 4 → bytes[n + j]? = some (v.extractLsb' (8 * j) 8)

/-- `simp` needs the width as a sum here: `littleEndian` states it as 32. -/
theorem littleEndian_getLsbD (b0 b1 b2 b3 : Byte) (k : Nat) :
    (littleEndian b0 b1 b2 b3).getLsbD k =
      if k < 8 then b0.getLsbD k else if k < 16 then b1.getLsbD (k - 8)
      else if k < 24 then b2.getLsbD (k - 16) else b3.getLsbD (k - 24) := by
  change (b3 ++ b2 ++ b1 ++ b0 : BitVec (8 + 8 + 8 + 8)).getLsbD k = _
  simp only [BitVec.getLsbD_append]
  simp only [Nat.sub_sub, Nat.reduceAdd, show k - 8 < 8 ↔ k < 16 by omega, show k - 16 < 8 ↔ k < 24 by omega]

/-- `littleEndian` lays its four bytes down in their stream order. -/
theorem valueAt_littleEndian (b0 b1 b2 b3 : Byte) (rest : List Byte) :
    ValueAt (b0 :: b1 :: b2 :: b3 :: rest) 0 (littleEndian b0 b1 b2 b3) := by
  intro j hj
  interval_cases j <;> refine congrArg some (BitVec.eq_of_getLsbD_eq fun i hi => ?_) <;>
    rw [BitVec.getLsbD_extractLsb', littleEndian_getLsbD]
  · simp [hi]
  · simp [hi, show 8 + i < 16 by omega]
  · simp [hi, show ¬16 + i < 8 by omega, show 16 + i < 24 by omega]
  · simp [hi, show ¬24 + i < 8 by omega, show ¬24 + i < 16 by omega]

theorem valueAt_cons {b : Byte} {bytes : List Byte} {n : Nat} {v : BitVec 32} :
    ValueAt (b :: bytes) (n + 1) v ↔ ValueAt bytes n v := by
  simp only [ValueAt, Nat.add_right_comm n 1, List.getElem?_cons_succ]

theorem bypassWords_length (bytes : List Byte) : (bypassWords bytes).length = bytes.length / 8 := by
  induction bytes using bypassWords.induct with
  | case1 i0 i1 i2 i3 q0 q1 q2 q3 rest ih => simp only [bypassWords, List.length_cons, ih]; omega
  | case2 bytes hshort =>
    have hlen : bytes.length < 8 := by
      by_contra hlen
      have hge : 8 ≤ bytes.length := Nat.not_lt.mp hlen
      match bytes with
      | i0 :: i1 :: i2 :: i3 :: q0 :: q1 :: q2 :: q3 :: rest => exact hshort i0 i1 i2 i3 q0 q1 q2 q3 rest rfl
    rw [bypassWords.eq_2 bytes hshort, Nat.div_eq_of_lt hlen, List.length_nil]

theorem bypassWords_getElem? {bytes : List Byte} {k : Nat} (hk : 8 * k + 8 ≤ bytes.length) :
    ∃ iv qv, (bypassWords bytes)[k]? = some (encode (.cplxDecimated iv qv)) ∧
      ValueAt bytes (8 * k) iv ∧ ValueAt bytes (8 * k + 4) qv := by
  induction k generalizing bytes with
  | zero =>
    match bytes with
    | i0 :: i1 :: i2 :: i3 :: q0 :: q1 :: q2 :: q3 :: rest =>
      refine ⟨littleEndian i0 i1 i2 i3, littleEndian q0 q1 q2 q3, by simp [bypassWords],
        valueAt_littleEndian i0 i1 i2 i3 _, ?_⟩
      simpa only [valueAt_cons] using valueAt_littleEndian q0 q1 q2 q3 rest
  | succ k ih =>
    match bytes with
    | i0 :: i1 :: i2 :: i3 :: q0 :: q1 :: q2 :: q3 :: rest =>
      obtain ⟨iv, qv, hword, hiv, hqv⟩ := ih (bytes := rest) (by simp only [List.length_cons] at hk; omega)
      refine ⟨iv, qv, by simpa [bypassWords] using hword, ?_, ?_⟩
      · simpa only [Nat.mul_succ, valueAt_cons] using hiv
      · simpa only [Nat.mul_succ, Nat.add_right_comm _ 8 4, valueAt_cons] using hqv

/-- Settles O56: the word at `k` is the encoding of the two values that stand at bytes `8k` and `8k + 4`. -/
theorem bypassStreamIsLittleEndian : Obligations.BypassStreamIsLittleEndian := fun bytes => by
  refine ⟨bypassWords_length bytes, fun k hk => ?_⟩
  obtain ⟨iv, qv, hword, hiv, hqv⟩ := bypassWords_getElem? hk
  exact ⟨_, iv, qv, hword, decode_encode (.cplxDecimated iv qv), fun j hj => ⟨hiv j hj, hqv j hj⟩⟩

end Sys2Proof.Machine

/-!
# The framing machine before and around a frame

`FSM_STEP` in each framing state (44_framing.md R250), and what each part of it does with the parity (R260). The two
seeking states are then read off the cases of their step, and only the entry to `Receiving` clears the parity.
-/

namespace Sys2Proof.Machine

section framing
variable (b : Bool) (s : State)

/-! ## One bit in each framing state -/

theorem State.fsmStep_of_seekPreamble (hfsm : s.fsmState = .seekPreamble) :
    s.fsmStep b = (s.seekPreambleStep b).setPrevBit b := by
  rw [State.fsmStep, hfsm]

theorem State.fsmStep_of_seekPreambleEnd (hfsm : s.fsmState = .seekPreambleEnd) :
    s.fsmStep b = (s.seekPreambleEndStep b).setPrevBit b := by
  rw [State.fsmStep, hfsm]

theorem State.fsmStep_of_receiving (hfsm : s.fsmState = .receiving) :
    s.fsmStep b = (s.receivingStep b).setPrevBit b := by
  rw [State.fsmStep, hfsm]

/-! ## The count of transitions (R251, R252) -/

variable {b s}

/-- `MIN_TRANS` is at least 1, so a cleared count never reaches it. -/
theorem State.seekPreambleStep_of_same (hsame : b = s.prevBit) (hmin : 1 ≤ s.cfg.minTrans) :
    s.seekPreambleStep b = { s with transCnt := 0 } := by
  rcases s.seekPreambleStep_cases b with ⟨hreached, _⟩ | ⟨_, hseek⟩
  · simp only [hsame, bne_self_eq_false, Bool.false_eq_true, if_false] at hreached
    omega
  · simpa [hsame] using hseek

theorem State.seekPreambleStep_of_below (hdiff : b ≠ s.prevBit) (hbelow : s.transCnt + 1 ≠ s.cfg.minTrans) :
    s.seekPreambleStep b = { s with transCnt := s.transCnt + 1 } := by
  rcases s.seekPreambleStep_cases b with ⟨hreached, _⟩ | ⟨_, hseek⟩
  · exact absurd (by simpa [hdiff] using hreached) hbelow
  · simpa [hdiff] using hseek

theorem State.seekPreambleStep_of_reached (hdiff : b ≠ s.prevBit) (hreached : s.transCnt + 1 = s.cfg.minTrans) :
    s.seekPreambleStep b =
      { s with transCnt := 0, zeroCnt := 0, fsmState := .seekPreambleEnd }.trace .preambleSeen := by
  rcases s.seekPreambleStep_cases b with ⟨_, hseek⟩ | ⟨hbelow, _⟩
  · exact hseek
  · exact absurd hreached (by simpa [hdiff] using hbelow)

variable (b s)

/-! ## The parity (R260) -/

@[simp] theorem State.closeByte_parity : s.closeByte.parity = s.parity := by
  rcases s.closeByte_cases with ⟨_, hclose⟩ | ⟨_, hclose⟩ <;> rw [hclose]
  rw [State.deliver_parity]

@[simp] theorem State.dataHalf_parity : (s.dataHalf b).parity = s.parity := by
  rcases s.dataHalf_cases b with ⟨_, _, hdata⟩ | ⟨_, hdata⟩ <;> rw [hdata]
  · rw [State.closeByte_parity, State.shiftIn]
  · rw [State.shiftIn]

@[simp] theorem State.checkHalf_parity : (s.checkHalf b).parity = s.parity := by
  rcases s.checkHalf_cases b with ⟨_, hcheck⟩ | ⟨_, _, _, hcheck⟩ | ⟨_, _, hcheck⟩ <;> rw [hcheck]
  · rw [State.trace_parity]
  · rw [State.closeByte_parity]

/-- A violation and a delivery flip the parity too, as every bit in `Receiving` does. -/
@[simp] theorem State.receivingStep_parity : (s.receivingStep b).parity = !s.parity := by
  rcases s.receivingStep_cases b with ⟨_, hrecv⟩ | ⟨_, hrecv⟩ <;>
    rw [hrecv, State.flipParity_parity]
  · rw [State.dataHalf_parity]
  · rw [State.checkHalf_parity]

@[simp] theorem State.seekPreambleStep_parity : (s.seekPreambleStep b).parity = s.parity := by
  rcases s.seekPreambleStep_cases b with ⟨_, hseek⟩ | ⟨_, hseek⟩ <;> rw [hseek]
  rw [State.trace_parity]

theorem State.seekPreambleStep_fsmState_ne_receiving (hfsm : s.fsmState = .seekPreamble) :
    (s.seekPreambleStep b).fsmState ≠ .receiving := by
  rcases s.seekPreambleStep_cases b with ⟨_, hseek⟩ | ⟨_, hseek⟩ <;> rw [hseek]
  · simp
  · simp [hfsm]

/-- A bit in `SeekPreambleEnd` enters `Receiving` with the parity cleared, or leaves the parity as it is. -/
theorem State.seekPreambleEndStep_parity (hfsm : s.fsmState = .seekPreambleEnd) :
    ((s.seekPreambleEndStep b).fsmState = .receiving ∧ (s.seekPreambleEndStep b).parity = false) ∨
    ((s.seekPreambleEndStep b).fsmState ≠ .receiving ∧ (s.seekPreambleEndStep b).parity = s.parity) := by
  rcases s.seekPreambleEndStep_cases b with ⟨_, hend⟩ | ⟨_, _, hend⟩ | ⟨_, _, hend⟩ <;> rw [hend]
  · exact .inr ⟨by simp, State.trace_parity ..⟩
  · exact .inl ⟨State.enterReceiving_fsmState _, State.enterReceiving_parity _⟩
  · exact .inr ⟨by simp [hfsm], rfl⟩

/-- Outside `Receiving`, only the entry to it writes the parity, and clears it. -/
theorem State.fsmStep_parity_of_ne_receiving (hfsm : s.fsmState ≠ .receiving) :
    ((s.fsmStep b).fsmState = .receiving ∧ (s.fsmStep b).parity = false) ∨
    ((s.fsmStep b).fsmState ≠ .receiving ∧ (s.fsmStep b).parity = s.parity) := by
  rcases s.fsmStep_cases b with ⟨hseek, hstep⟩ | ⟨hend, hstep⟩ | ⟨hrecv, _⟩
  · rw [hstep]
    exact .inr ⟨s.seekPreambleStep_fsmState_ne_receiving b hseek, s.seekPreambleStep_parity b⟩
  · rw [hstep]
    exact s.seekPreambleEndStep_parity b hend
  · exact absurd hrecv hfsm

end framing

/-- Settles O49: by the framing state the bit is consumed in. -/
theorem parityAlternatesWhileReceiving : Obligations.ParityAlternatesWhileReceiving := by
  intro s b
  refine ⟨fun hfsm => ?_, fun hfsm hin => ?_, fun hfsm hout => ?_, s.fsmStep_prevBit b⟩
  · rw [s.fsmStep_of_receiving b hfsm, State.setPrevBit_parity, State.receivingStep_parity]
  · rcases s.fsmStep_parity_of_ne_receiving b hfsm with ⟨_, hclear⟩ | ⟨hout, _⟩
    · exact hclear
    · exact absurd hin hout
  · rcases s.fsmStep_parity_of_ne_receiving b hfsm with ⟨hin, _⟩ | ⟨_, hkeep⟩
    · exact absurd hin hout
    · exact hkeep

/-- Settles O44: by how the bit compares with the previous one, and the count with `MIN_TRANS`. -/
theorem preambleTransitionsAreCounted : Obligations.PreambleTransitionsAreCounted := by
  intro s b hfsm hmin
  rw [s.fsmStep_of_seekPreamble b hfsm]
  refine ⟨fun hsame => ?_, fun hdiff hbelow => ?_, fun hdiff hreached => ?_⟩
  · rw [State.seekPreambleStep_of_same hsame hmin]; rfl
  · rw [State.seekPreambleStep_of_below hdiff hbelow]; rfl
  · rw [State.seekPreambleStep_of_reached hdiff hreached]; rfl

/-- Settles O45: a `1`, the fourth `0` and an earlier `0` are the three cases of a bit in `SeekPreambleEnd`. -/
theorem terminatorZerosAreCounted : Obligations.TerminatorZerosAreCounted := by
  intro s b hfsm
  rw [s.fsmStep_of_seekPreambleEnd b hfsm]
  rcases s.seekPreambleEndStep_cases b with ⟨rfl, hend⟩ | ⟨rfl, hfourth, hend⟩ | ⟨rfl, hearlier, hend⟩ <;> rw [hend]
  · exact ⟨fun _ => rfl, nofun, nofun⟩
  · exact ⟨nofun, fun _ _ => rfl, fun _ hne => absurd (Nat.succ.inj hfourth) hne⟩
  · exact ⟨nofun, fun _ heq => absurd (congrArg Nat.succ heq) hearlier, fun _ _ => rfl⟩

end Sys2Proof.Machine

/-!
# The encoding

A word is its three fields side by side, so each test of the opcode table by match and mask (30_encoding.md R116,
R117) is a test of the kind and of the reserved field, which are what the decoder branches on. What the decoder answers is said once for each
kind; the rest follows field by field.
-/

namespace Sys2Proof

/-! ## What the decoder answers -/

section answers
variable (T : Txn)

theorem decode_eq_rawSample_iff :
    decode T = .ok (.rawSample (T.extractLsb' 0 8) (T.extractLsb' 8 8)) ↔
      kindField T = 0b00#2 ∧ rawReserved T = 0#48 := by
  unfold decode
  split_ifs <;> simp_all

theorem decode_eq_cplxDecimated_iff :
    decode T = .ok (.cplxDecimated (T.extractLsb' 0 32) (T.extractLsb' 32 32)) ↔ kindField T = 0b01#2 := by
  unfold decode
  split_ifs <;> simp_all

theorem decode_eq_reservedBits_iff :
    decode T = .error .reservedBits ↔ kindField T = 0b00#2 ∧ rawReserved T ≠ 0#48 := by
  unfold decode
  split_ifs <;> simp_all

theorem decode_eq_reservedKind_iff :
    decode T = .error .reservedKind ↔ kindField T = 0b10#2 ∨ kindField T = 0b11#2 := by
  have hcodes : ∀ k : BitVec 2, (k ≠ 0b00#2 ∧ k ≠ 0b01#2) ↔ (k = 0b10#2 ∨ k = 0b11#2) := by decide
  rw [← hcodes]
  unfold decode
  split_ifs <;> simp_all

/-- The kind selects the row, and for a RAW_SAMPLE the reserved field decides (R111, R115 checks 1 and 3). -/
theorem decode_cases :
    (kindField T = 0b00#2 ∧ rawReserved T = 0#48 ∧
      decode T = .ok (.rawSample (T.extractLsb' 0 8) (T.extractLsb' 8 8))) ∨
    (kindField T = 0b00#2 ∧ rawReserved T ≠ 0#48 ∧ decode T = .error .reservedBits) ∨
    (kindField T = 0b01#2 ∧ decode T = .ok (.cplxDecimated (T.extractLsb' 0 32) (T.extractLsb' 32 32))) ∨
    ((kindField T = 0b10#2 ∨ kindField T = 0b11#2) ∧ decode T = .error .reservedKind) := by
  have hcodes : ∀ k : BitVec 2, k = 0b00#2 ∨ k = 0b01#2 ∨ k = 0b10#2 ∨ k = 0b11#2 := by decide
  rcases hcodes (kindField T) with hraw | hcplx | hres
  · by_cases hr : rawReserved T = 0#48
    · exact .inl ⟨hraw, hr, (decode_eq_rawSample_iff T).2 ⟨hraw, hr⟩⟩
    · exact .inr (.inl ⟨hraw, hr, (decode_eq_reservedBits_iff T).2 ⟨hraw, hr⟩⟩)
  · exact .inr (.inr (.inl ⟨hcplx, (decode_eq_cplxDecimated_iff T).2 hcplx⟩))
  · exact .inr (.inr (.inr ⟨hres, (decode_eq_reservedKind_iff T).2 hres⟩))

end answers

/-! ## A word as its fields -/

/-- A word of three fields: kind, bits 63 to 16, bits 15 to 0 (R110, R112). -/
def wordOfFields (kind : BitVec 2) (reserved : BitVec 48) (low : BitVec 16) : Txn :=
  (kind ++ reserved ++ low : BitVec (2 + 48 + 16))

theorem wordOfFields_fields (T : Txn) : wordOfFields (kindField T) (rawReserved T) (T.extractLsb' 0 16) = T := by
  unfold wordOfFields kindField rawReserved
  rw [BitVec.extractLsb'_append_extractLsb'_eq_extractLsb' (by rfl),
    BitVec.extractLsb'_append_extractLsb'_eq_extractLsb' (by rfl)]
  exact BitVec.extractLsb'_eq_self

theorem wordOfFields_and (k k' : BitVec 2) (r r' : BitVec 48) (l l' : BitVec 16) :
    wordOfFields k r l &&& wordOfFields k' r' l' = wordOfFields (k &&& k') (r &&& r') (l &&& l') := by
  change (k ++ r ++ l : BitVec (2 + 48 + 16)) &&& (k' ++ r' ++ l' : BitVec (2 + 48 + 16)) = (_ ++ _ ++ _)
  rw [BitVec.and_append, BitVec.and_append]

/-- `simp` needs the width as a sum here: `wordOfFields` states it as 66. -/
theorem wordOfFields_getLsbD (k : BitVec 2) (r : BitVec 48) (l : BitVec 16) (i : Nat) :
    (wordOfFields k r l).getLsbD i =
      if i < 16 then l.getLsbD i else if i < 64 then r.getLsbD (i - 16) else k.getLsbD (i - 64) := by
  change (k ++ r ++ l : BitVec (2 + 48 + 16)).getLsbD i = _
  rw [BitVec.getLsbD_append, BitVec.getLsbD_append, Nat.sub_sub]
  by_cases h16 : i < 16
  · simp [h16]
  · simp [h16, show i - 16 < 48 ↔ i < 64 by omega]

@[simp] theorem kindField_wordOfFields (k : BitVec 2) (r : BitVec 48) (l : BitVec 16) :
    kindField (wordOfFields k r l) = k := by
  apply BitVec.eq_of_getLsbD_eq
  intro i hi
  simp [kindField, wordOfFields_getLsbD, hi, show ¬64 + i < 16 by omega]

@[simp] theorem rawReserved_wordOfFields (k : BitVec 2) (r : BitVec 48) (l : BitVec 16) :
    rawReserved (wordOfFields k r l) = r := by
  apply BitVec.eq_of_getLsbD_eq
  intro i hi
  simp [rawReserved, wordOfFields_getLsbD, hi, show 16 + i < 64 by omega]

theorem wordOfFields_inj {k k' : BitVec 2} {r r' : BitVec 48} (l : BitVec 16) :
    wordOfFields k r l = wordOfFields k' r' l ↔ k = k' ∧ r = r' := by
  refine ⟨fun h => ⟨?_, ?_⟩, fun ⟨hk, hr⟩ => by rw [hk, hr]⟩
  · simpa using congrArg kindField h
  · simpa using congrArg rawReserved h

/-- A word under a mask that drops its low 16 bits. -/
theorem and_wordOfFields_eq_iff (T : Txn) (k k' : BitVec 2) (r r' : BitVec 48) :
    T &&& wordOfFields k r 0#16 = wordOfFields k' r' 0#16 ↔ kindField T &&& k = k' ∧ rawReserved T &&& r = r' := by
  conv_lhs => rw [← wordOfFields_fields T, wordOfFields_and, BitVec.and_zero]
  exact wordOfFields_inj 0#16

/-! ## The obligations on the encoding -/

/-- Settles O2: by the field lemmas of the encoder; the table numbers the same 66 bits. -/
theorem decodeReadsBackEveryEncoding : Obligations.DecodeReadsBackEveryEncoding := by
  intro i _
  have hlt : (encode i).toNat < 2 ^ 66 := (encode i).isLt
  have hmod : (encode i).toNat % 2 ^ 72 = (encode i).toNat :=
    Nat.mod_eq_of_lt (hlt.trans (by norm_num))
  refine ⟨decode_encode i, ?_⟩
  unfold decodeTableWord
  rw [hmod, if_pos hlt, BitVec.ofNat_toNat, BitVec.setWidth_eq, decode_encode]

/-- Two words with the same bits 0 to 63 and the same kind field are one word. -/
theorem eq_of_bits {T U : Txn} (hlow : ∀ k, k < 64 → T.getLsbD k = U.getLsbD k) (hkind : kindField T = kindField U) :
    T = U := by
  apply BitVec.eq_of_getLsbD_eq
  intro k hk
  by_cases hk64 : k < 64
  · exact hlow k hk64
  · have hbit := congrArg (BitVec.getLsbD · (k - 64)) hkind
    simpa [kindField, show k - 64 < 2 by omega, show 64 + (k - 64) = k by omega] using hbit

/-- Settles O3: the decoder's cases leave no bit of a decoded word free. -/
theorem decodedWordIsTheEncoding : Obligations.DecodedWordIsTheEncoding := by
  intro T i hdec
  rcases decode_cases T with ⟨hkind, hres, h⟩ | ⟨_, _, h⟩ | ⟨hkind, h⟩ | ⟨_, h⟩ <;> rw [hdec] at h
  · obtain rfl := Except.ok.inj h
    refine eq_of_bits (fun k hk => ?_) (by rw [kindField_encode, hkind]; rfl)
    rw [encode_rawSample_getLsbD]
    have hbit := congrArg (BitVec.getLsbD · (k - 16)) hres
    by_cases h8 : k < 8
    · simp [h8]
    · by_cases h16 : k < 16
      · simp [h8, h16, show k - 8 < 8 by omega, show 8 + (k - 8) = k by omega]
      · simp [rawReserved, show k - 16 < 48 by omega, show 16 + (k - 16) = k by omega] at hbit
        simp [h8, h16, hbit]
  · cases h
  · obtain rfl := Except.ok.inj h
    refine eq_of_bits (fun k hk => ?_) (by rw [kindField_encode, hkind]; rfl)
    rw [encode_cplxDecimated_getLsbD]
    by_cases h32 : k < 32
    · simp [h32]
    · simp [h32, hk, show k - 32 < 32 by omega, show 32 + (k - 32) = k by omega]
  · cases h

/-- Settles O4: each mask and each match word is a word of fields, so a masked comparison is one of fields. -/
theorem opcodeRowsSelectTransactions : Obligations.OpcodeRowsSelectTransactions := by
  intro T
  have hrawMask : (0x3FFFFFFFFFFFF0000#66 : Txn) = wordOfFields 0b11#2 (BitVec.allOnes 48) 0#16 := by decide
  have hkindMask : (0x30000000000000000#66 : Txn) = wordOfFields 0b11#2 0#48 0#16 := by decide
  have htopMask : (0x20000000000000000#66 : Txn) = wordOfFields 0b10#2 0#48 0#16 := by decide
  have hresMask : (0x0FFFFFFFFFFFF0000#66 : Txn) = wordOfFields 0b00#2 (BitVec.allOnes 48) 0#16 := by decide
  have hcplxMatch : (0x10000000000000000#66 : Txn) = wordOfFields 0b01#2 0#48 0#16 := by decide
  have hzero : (0#66 : Txn) = wordOfFields 0b00#2 0#48 0#16 := by decide
  have hall : ∀ k : BitVec 2, k &&& 0b11#2 = k := by decide
  have htop : ∀ k : BitVec 2, k &&& 0b10#2 = 0b10#2 ↔ k = 0b10#2 ∨ k = 0b11#2 := by decide
  rw [hrawMask, hkindMask, htopMask, hresMask, hcplxMatch, hzero]
  simp only [ne_eq, and_wordOfFields_eq_iff, BitVec.and_zero, BitVec.and_allOnes, hall, htop, and_true, true_and]
  exact ⟨decode_eq_rawSample_iff T, decode_eq_cplxDecimated_iff T, decode_eq_reservedKind_iff T,
    decode_eq_reservedBits_iff T⟩

/-- Settles O1: each word is evaluated by the decoder. -/
theorem writtenWordsDecode : Obligations.WrittenWordsDecode := by
  unfold Obligations.WrittenWordsDecode
  decide

end Sys2Proof

/-!
# The decimated path and the transactions

One decimated sample has the effect that 40_transactions.md R144 lists, whatever stage presents it. A RAW_SAMPLE is
then its taps, its two filter puts and the phase, and at the end of a group one decimated sample (R140, R182); a
CPLX_DECIMATED is one decimated sample (R141).
-/

namespace Sys2Proof.Machine

/-! ## One decimated sample (R144) -/

section slicing
variable (b : Bool) (s : State)

theorem State.reanchor_nextDecision : (s.reanchor b).nextDecision = s.anchor b := by
  rw [s.reanchor_eq b]; rfl

theorem State.sliceBit_lastBit : (s.sliceBit b).lastBit = b := by
  rcases s.sliceBit_cases b with ⟨_, h⟩ | ⟨_, h⟩ <;> rw [h, s.reanchor_eq b]
  exact State.fsmStep_lastBit b _

theorem State.sliceBit_env : (s.sliceBit b).env = s.env := by
  rcases s.sliceBit_cases b with ⟨_, h⟩ | ⟨_, h⟩ <;> rw [h, s.reanchor_eq b]
  exact State.fsmStep_env b _

theorem State.sliceBit_base : (s.sliceBit b).base = s.base := by
  rcases s.sliceBit_cases b with ⟨_, h⟩ | ⟨_, h⟩ <;> rw [h, s.reanchor_eq b]
  exact State.fsmStep_base b _

theorem State.sliceBit_sampleIdx : (s.sliceBit b).sampleIdx = s.cfg.addW s.sampleIdx 1 := by
  rcases s.sliceBit_cases b with ⟨_, h⟩ | ⟨_, h⟩ <;> rw [h]

/-- At a decision the next one is `SPB` later; otherwise it stays where the raw bit has put it (R221, R222). -/
theorem State.sliceBit_nextDecision :
    (s.sliceBit b).nextDecision =
      if s.sampleIdx = s.anchor b then s.cfg.addW (s.anchor b) s.cfg.spb else s.anchor b := by
  rw [← s.reanchor_nextDecision b]
  rcases s.sliceBit_cases b with ⟨hidx, h⟩ | ⟨hidx, h⟩ <;> rw [h]
  · rw [if_pos hidx]
  · rw [if_neg hidx]

/-- Two states with the same framing registers and history go through `FSM_STEP` alike (R250). -/
theorem State.fsmStep_eq_withFraming {s t : State} (hcfg : s.cfg = t.cfg) (hsame : s = s.withFraming t) :
    s.fsmStep b = s.withFraming (t.fsmStep b) := by
  conv_lhs => rw [hsame]
  exact State.fsmStep_withFraming b s t hcfg

/-- At the decision index the framing machine takes the raw bit (R222). -/
theorem State.sliceBit_withFraming_of_decision (hidx : s.sampleIdx = s.anchor b) :
    s.withFraming (s.sliceBit b) = s.withFraming ((s.trace (.bit b)).fsmStep b) := by
  rcases s.sliceBit_cases b with ⟨_, h⟩ | ⟨hne, _⟩
  · rw [h, State.fsmStep_eq_withFraming (t := s.trace (.bit b)) b (by rw [s.reanchor_eq b]; rfl)
      (by rw [s.reanchor_eq b]; rfl)]
    rfl
  · exact absurd hidx (s.reanchor_nextDecision b ▸ hne)

/-- Anywhere else the framing machine and the history stay as they are (R222). -/
theorem State.sliceBit_withFraming_of_no_decision (hidx : s.sampleIdx ≠ s.anchor b) :
    s.withFraming (s.sliceBit b) = s := by
  rcases s.sliceBit_cases b with ⟨heq, _⟩ | ⟨_, h⟩
  · exact absurd (s.reanchor_nextDecision b ▸ heq) hidx
  · rw [h, s.reanchor_eq b]; rfl

end slicing

/-- The decimated path has the effect that R144 lists, for the power of its pair. -/
theorem State.decimatedPath_effect (i q : NUM) (s : State) :
    s.DecimatedEffect (magnitude s.cfg.num i q) (s.decimatedPath i q) := by
  have hbit : (s.decimatedPath i q).lastBit = s.pairBit i q := State.sliceBit_lastBit ..
  constructor
  case env_eq => rw [s.decimatedPath_eq, State.sliceBit_env]; rfl
  case base_eq => rw [s.decimatedPath_eq, State.sliceBit_base]; rfl
  case bit_eq => exact hbit
  case idx_eq => rw [s.decimatedPath_eq, State.sliceBit_sampleIdx]; rfl
  case next_eq => rw [hbit, s.decimatedPath_eq, State.sliceBit_nextDecision]; rfl
  case decided =>
    intro hidx
    rw [hbit] at hidx ⊢
    have htaken := congrArg s.withFraming (State.sliceBit_withFraming_of_decision (s.pairBit i q)
      (s.averagePower (magnitude s.cfg.num i q)).1 hidx)
    rwa [State.fsmStep_eq_withFraming (s := (s.averagePower (magnitude s.cfg.num i q)).1.trace (.bit (s.pairBit i q)))
      (t := s.trace (.bit (s.pairBit i q))) (s.pairBit i q) rfl rfl] at htaken
  case undecided =>
    intro hidx
    rw [hbit] at hidx
    have hkept := congrArg s.withFraming (State.sliceBit_withFraming_of_no_decision (s.pairBit i q)
      (s.averagePower (magnitude s.cfg.num i q)).1 hidx)
    exact hkept
  case frame => exact s.decimatedPath_frame i q

end Sys2Proof.Machine


namespace Sys2Proof.Machine

/-! ## The two transactions (R140, R141) -/

section taps
variable (m : Nat) (mk : TapValue → TapValue → OutputEvent) (i q : NUM) (s : State)

/-- A pair sent to the tap that debug mode `m` opens (R143). -/
def State.tappedIn : State := if s.cfg.debugMode = m then s.emitTap mk i q else s

variable {m s} in
theorem State.tappedIn_of_mode (hmode : s.cfg.debugMode = m) : s.tappedIn m mk i q = s.emitTap mk i q := if_pos hmode

variable {m s} in
theorem State.tappedIn_of_other_mode (hmode : s.cfg.debugMode ≠ m) : s.tappedIn m mk i q = s := if_neg hmode

/-- A tap writes no register (R143). -/
theorem State.tappedIn_frame :
    s.tappedIn m mk i q =
      { s with history := (s.tappedIn m mk i q).history, tapCount := (s.tappedIn m mk i q).tapCount } := by
  by_cases hmode : s.cfg.debugMode = m
  · rw [State.tappedIn_of_mode mk i q hmode]; rfl
  · rw [State.tappedIn_of_other_mode mk i q hmode]

@[simp] theorem State.tappedIn_cfg : (s.tappedIn m mk i q).cfg = s.cfg := by rw [State.tappedIn_frame]

theorem State.tappedIn_history :
    ∃ l, (l = [] ∨ s.cfg.debugMode = m ∧ ∃ x y, l = [.out (mk x y)]) ∧
      (s.tappedIn m mk i q).history = s.history ++ l := by
  by_cases hmode : s.cfg.debugMode = m
  · rw [State.tappedIn_of_mode mk i q hmode]
    exact ⟨_, .inr ⟨hmode, _, _, rfl⟩, State.emitTap_history ..⟩
  · rw [State.tappedIn_of_other_mode mk i q hmode]
    exact ⟨[], .inl rfl, by simp⟩

end taps

section rawSample
variable (ib qb : Byte) (s : State)

/-- A RAW_SAMPLE up to the phase: the conversion tap and the two puts (R140, R180). -/
def State.filtered : State :=
  { s.tappedIn 1 .tapConv (iqConvAt s.cfg ib) (iqConvAt s.cfg qb) with
    filtI := s.filtI.put s.cfg (iqConvAt s.cfg ib), filtQ := s.filtQ.put s.cfg (iqConvAt s.cfg qb) }

/-- A RAW_SAMPLE that completes a group, up to the decimated path: besides, the phase starts again and the filter
tap takes its pair (R182). -/
def State.grouped : State :=
  { s.filtered ib qb with decimPhase := 0 }.tappedIn 3 .tapFilt (s.filtI.put s.cfg (iqConvAt s.cfg ib)).y
    (s.filtQ.put s.cfg (iqConvAt s.cfg qb)).y

theorem State.filtered_frame :
    s.filtered ib qb =
      { s with filtI := s.filtI.put s.cfg (iqConvAt s.cfg ib), filtQ := s.filtQ.put s.cfg (iqConvAt s.cfg qb),
               tapCount := (s.filtered ib qb).tapCount, history := (s.filtered ib qb).history } := by
  rw [State.filtered, State.tappedIn_frame]

@[simp] theorem State.filtered_cfg : (s.filtered ib qb).cfg = s.cfg := by rw [State.filtered_frame]

theorem State.grouped_frame :
    s.grouped ib qb =
      { s with filtI := s.filtI.put s.cfg (iqConvAt s.cfg ib), filtQ := s.filtQ.put s.cfg (iqConvAt s.cfg qb),
               decimPhase := 0, tapCount := (s.grouped ib qb).tapCount, history := (s.grouped ib qb).history } := by
  rw [State.grouped, State.tappedIn_frame, State.filtered_frame]

@[simp] theorem State.grouped_cfg : (s.grouped ib qb).cfg = s.cfg := by rw [State.grouped_frame]

theorem State.rawSample_eq : s.rawSample ib qb = (s.filtered ib qb).decimate := by
  unfold State.rawSample State.filtered State.tappedIn
  split <;> rfl

variable {ib qb s} in
theorem State.rawSample_between (hphase : s.decimPhase + 1 ≠ s.cfg.decim) :
    s.rawSample ib qb = { s.filtered ib qb with decimPhase := s.decimPhase + 1 } := by
  rw [State.rawSample_eq]
  rcases (s.filtered ib qb).decimate_cases with ⟨h, _⟩ | ⟨_, h⟩ <;> rw [State.filtered_frame] at h ⊢
  · exact absurd h hphase
  · exact h

variable {ib qb s} in
theorem State.rawSample_completing (hphase : s.decimPhase + 1 = s.cfg.decim) :
    s.rawSample ib qb = (s.grouped ib qb).decimatedPath (s.filtI.put s.cfg (iqConvAt s.cfg ib)).y
      (s.filtQ.put s.cfg (iqConvAt s.cfg qb)).y := by
  rw [State.rawSample_eq]
  rcases (s.filtered ib qb).decimate_cases with ⟨_, h⟩ | ⟨h, _⟩
  · rw [h]; rfl
  · rw [State.filtered_frame] at h
    exact absurd hphase h

end rawSample

/-! ## Acceptance and refusal (R111, R115) -/

theorem rawAdmitted_iff (c : Config) :
    rawAdmitted c = true ↔ c.debugMode = 0 ∨ c.debugMode = 1 ∨ c.debugMode = 3 := by
  simp [rawAdmitted, or_assoc]

theorem cplxAdmitted_iff (c : Config) : cplxAdmitted c = true ↔ c.debugMode = 2 := by simp [cplxAdmitted]

theorem rawRefusal_eq_none_iff (c : Config) :
    rawRefusal c = none ↔ c.debugMode = 0 ∨ c.debugMode = 1 ∨ c.debugMode = 3 := by
  rw [← rawAdmitted_iff, rawRefusal]
  cases rawAdmitted c <;> simp

theorem rawRefusal_of_not_admitted {c : Config} (h : ¬(c.debugMode = 0 ∨ c.debugMode = 1 ∨ c.debugMode = 3)) :
    rawRefusal c = some .kindNotInMode := by
  rw [← rawAdmitted_iff] at h
  simp [rawRefusal, h]

theorem cplxRefusal_eq_none_iff (c : Config) (iv qv : BitVec 32) :
    cplxRefusal c iv qv = none ↔ c.debugMode = 2 ∧ finiteBits iv = true ∧ finiteBits qv = true := by
  rw [← cplxAdmitted_iff, cplxRefusal]
  cases cplxAdmitted c <;> cases finiteBits iv <;> cases finiteBits qv <;> simp

theorem cplxRefusal_of_not_admitted {c : Config} (iv qv : BitVec 32) (h : c.debugMode ≠ 2) :
    cplxRefusal c iv qv = some .kindNotInMode := by
  rw [ne_eq, ← cplxAdmitted_iff] at h
  simp [cplxRefusal, h]

theorem finiteBits_eq_false_iff (w : BitVec 32) : finiteBits w = false ↔ w.extractLsb' 23 8 = 0xFF#8 := by
  simp [finiteBits, expField]

theorem finiteBits_eq_true_iff (w : BitVec 32) : finiteBits w = true ↔ w.extractLsb' 23 8 ≠ 0xFF#8 := by
  simp [finiteBits, expField]

theorem cplxRefusal_of_nonfinite {c : Config} {iv qv : BitVec 32} (hmode : c.debugMode = 2)
    (h : iv.extractLsb' 23 8 = 0xFF#8 ∨ qv.extractLsb' 23 8 = 0xFF#8) :
    cplxRefusal c iv qv = some .nonfinitePayload := by
  rw [← cplxAdmitted_iff] at hmode
  rw [← finiteBits_eq_false_iff, ← finiteBits_eq_false_iff] at h
  rcases h with h | h <;> simp [cplxRefusal, hmode, h]

section accept
variable {refusal : Option RefusalReason} {run : State → State} {s : State}

theorem accept_of_halted (hhalt : s.halted = true) : accept refusal run s = .fault (.halted s.haltCause) := by
  simp [accept, hhalt]

theorem accept_of_refusal {r : RefusalReason} (hhalt : s.halted = false) (href : refusal = some r) :
    accept refusal run s = .next (s.markRefused r) := by
  simp [accept, hhalt, href]

theorem accept_of_accepted (hhalt : s.halted = false) (href : refusal = none) :
    accept refusal run s = .next (run s) := by
  simp [accept, hhalt, href]

/-- A presented transaction that goes on leaves a block that was not halted. -/
theorem accept_eq_next {t : State} (h : accept refusal run s = .next t) :
    s.halted = false ∧ ((∃ r, t = s.markRefused r) ∨ (refusal = none ∧ t = run s)) := by
  rcases accept_cases refusal run s with ⟨_, e⟩ | ⟨hhalt, r, _, e⟩ | ⟨hhalt, href, e⟩ <;> rw [e] at h
  · cases h
  · exact ⟨hhalt, .inl ⟨r, (Host.Outcome.next.inj h).symm⟩⟩
  · exact ⟨hhalt, .inr ⟨href, (Host.Outcome.next.inj h).symm⟩⟩

end accept

/-- Everything a transaction can do, if it answers a next state. -/
theorem exec_cases {i : Instr} {s t : State} (h : exec i s = .next t) :
    (∃ r, t = s.markRefused r) ∨
    (∃ ib qb, i = .rawSample ib qb ∧ rawRefusal s.cfg = none ∧ t = s.rawSample ib qb) ∨
    (∃ iv qv, i = .cplxDecimated iv qv ∧ cplxRefusal s.cfg iv qv = none ∧ t = s.cplxDecimated iv qv) := by
  cases i with
  | rawSample ib qb =>
    rcases accept_eq_next h with ⟨_, href | ⟨hnone, ht⟩⟩
    · exact .inl href
    · exact .inr (.inl ⟨ib, qb, rfl, hnone, ht⟩)
  | cplxDecimated iv qv =>
    rcases accept_eq_next h with ⟨_, href | ⟨hnone, ht⟩⟩
    · exact .inl href
    · exact .inr (.inr ⟨iv, qv, rfl, hnone, ht⟩)

theorem exec_rawSample_of_admitted {ib qb : Byte} {s : State} (hhalt : s.halted = false)
    (hmode : s.cfg.debugMode = 0 ∨ s.cfg.debugMode = 1 ∨ s.cfg.debugMode = 3) :
    exec (.rawSample ib qb) s = .next (s.rawSample ib qb) :=
  accept_of_accepted hhalt ((rawRefusal_eq_none_iff s.cfg).2 hmode)

/-- Settles O19: the three refusals are those of the acceptance test, and `markRefused` writes the mark alone. -/
theorem unadmittedTransactionsAreRefused : Obligations.UnadmittedTransactionsAreRefused := fun _ hhalt =>
  ⟨fun _ _ hmode => accept_of_refusal hhalt (rawRefusal_of_not_admitted hmode),
   fun iv qv hmode => accept_of_refusal hhalt (cplxRefusal_of_not_admitted iv qv hmode),
   fun _ _ hmode hinf => accept_of_refusal hhalt (cplxRefusal_of_nonfinite hmode hinf)⟩

/-- Settles O16: before the last sample of its group a RAW_SAMPLE ends with the two puts and the phase. -/
theorem rawSampleBetweenDecimatedSamples : Obligations.RawSampleBetweenDecimatedSamples := by
  intro s ib qb hhalt hmode hphase
  have hraw := State.rawSample_between (ib := ib) (qb := qb) (Nat.ne_of_lt hphase)
  refine ⟨_, exec_rawSample_of_admitted hhalt hmode, ?_⟩
  rw [hraw]
  refine ⟨rfl, rfl, rfl, fun h1 => ?_, fun h1 => ?_, ?_⟩
  · rw [State.filtered, State.tappedIn_of_mode _ _ _ h1]
    exact ⟨rfl, rfl⟩
  · rw [State.filtered, State.tappedIn_of_other_mode _ _ _ h1]
    exact ⟨rfl, rfl⟩
  · rw [State.filtered_frame]

/-- Settles O17: the state before the decimated path carries the taps, and the path has the effect of one decimated
sample on it. -/
theorem rawSampleCompletingADecimatedSample : Obligations.RawSampleCompletingADecimatedSample := by
  intro s ib qb hhalt hmode hphase
  refine ⟨s.grouped ib qb, _, exec_rawSample_of_admitted hhalt hmode, s.grouped_frame ib qb,
    fun hmode => ?_, fun hmode => ?_, fun hmode => ?_, ?_⟩
  · rw [State.grouped, State.tappedIn_of_other_mode _ _ _ (by simp [hmode]), State.filtered,
      State.tappedIn_of_other_mode _ _ _ (by simp [hmode])]
    exact ⟨rfl, rfl⟩
  · rw [State.grouped, State.tappedIn_of_other_mode _ _ _ (by simp [hmode]), State.filtered,
      State.tappedIn_of_mode _ _ _ hmode]
    exact ⟨rfl, rfl⟩
  · rw [State.grouped, State.tappedIn_of_mode _ _ _ (by simp [hmode]), State.filtered,
      State.tappedIn_of_other_mode _ _ _ (by simp [hmode])]
    exact ⟨rfl, rfl⟩
  · have heffect := (s.grouped ib qb).decimatedPath_effect (s.filtI.put s.cfg (iqConvAt s.cfg ib)).y
      (s.filtQ.put s.cfg (iqConvAt s.cfg qb)).y
    rwa [State.grouped_cfg, ← State.rawSample_completing hphase] at heffect

/-- Settles O18: a CPLX_DECIMATED is the decimated path alone, which writes neither filter nor the phase. -/
theorem cplxDecimatedRunsTheDecimatedPath : Obligations.CplxDecimatedRunsTheDecimatedPath := by
  intro s iv qv hhalt hmode hiv hqv
  have hnone : cplxRefusal s.cfg iv qv = none := (cplxRefusal_eq_none_iff ..).2 ⟨hmode, hiv, hqv⟩
  refine ⟨s.cplxDecimated iv qv, accept_of_accepted hhalt hnone, s.decimatedPath_effect _ _, ?_⟩
  rw [State.cplxDecimated_frame]
  exact ⟨rfl, rfl, rfl⟩

/-! ## The phase (R182) -/

@[simp] theorem State.rawSample_cfg (ib qb : Byte) (s : State) : (s.rawSample ib qb).cfg = s.cfg := by
  rw [State.rawSample_frame]; rfl

theorem State.rawSample_decimPhase (ib qb : Byte) (s : State) :
    (s.rawSample ib qb).decimPhase = if s.decimPhase + 1 = s.cfg.decim then 0 else s.decimPhase + 1 := by
  by_cases hphase : s.decimPhase + 1 = s.cfg.decim
  · rw [if_pos hphase, State.rawSample_completing hphase, State.decimatedPath_frame, State.grouped_frame]; rfl
  · rw [if_neg hphase, State.rawSample_between hphase]

/-- Settles O29: by induction on the samples; one sample adds 1 modulo `DECIM`. -/
theorem decimationPhaseCountsRawSamples : Obligations.DecimationPhaseCountsRawSamples := by
  intro samples
  induction samples with
  | nil => exact fun s hlt => (Nat.mod_eq_of_lt hlt).symm
  | cons p samples ih =>
    intro s hlt
    have hone : (s.rawSample p.1 p.2).decimPhase = (s.decimPhase + 1) % s.cfg.decim := by
      rw [State.rawSample_decimPhase]
      split
      next hphase => rw [hphase, Nat.mod_self]
      next hphase => rw [Nat.mod_eq_of_lt (by omega)]
    have hrest := ih (s.rawSample p.1 p.2)
    rw [State.rawSample_cfg, hone] at hrest
    rw [List.foldl_cons, hrest (Nat.mod_lt _ (by omega)), Nat.mod_add_mod, List.length_cons, Nat.add_right_comm,
      Nat.add_assoc]

end Sys2Proof.Machine

/-!
# What the transactions add to the history, and what the taps leave alone

The events of a transaction are those of its stages in their order (60_exceptions.md R310). Two runs that differ only in
the debug mode, in what the taps have sent, and in the history so far, stay so through the decimated path (40_transactions.md R143).
-/

namespace Sys2Proof.Machine

/-! ## Events of one transaction (R310) -/

/-- The events of one decimated sample: a decision and the framing machine's, or none. -/
theorem State.decimatedPath_history (i q : NUM) (s : State) :
    ∃ decision framing, (s.decimatedPath i q).history = s.history ++ decision ++ framing ∧
      (decision = [] ∧ framing = [] ∨ (∃ b, decision = [.trace (.bit b)]) ∧ FramingEvents framing) := by
  obtain ⟨l, hl, hist⟩ := State.sliceBit_history (s.pairBit i q) (s.averagePower (magnitude s.cfg.num i q)).1
  rcases hl with rfl | ⟨f, hf, rfl⟩
  · exact ⟨[], [], by rw [s.decimatedPath_eq, hist]; simp [s.averagePower_eq], .inl ⟨rfl, rfl⟩⟩
  · exact ⟨[.trace (.bit (s.pairBit i q))], f, by rw [s.decimatedPath_eq, hist]; simp [s.averagePower_eq],
      .inr ⟨⟨_, rfl⟩, hf⟩⟩

/-- Settles O20: a RAW_SAMPLE adds the events of its two taps and of its decimated sample in that order, a
CPLX_DECIMATED those of its decimated sample, and a refusal none. -/
theorem transactionEventsComeInOrder : Obligations.TransactionEventsComeInOrder := by
  intro i s t hexec
  rcases exec_cases hexec with ⟨r, rfl⟩ | ⟨ib, qb, rfl, _, rfl⟩ | ⟨iv, qv, rfl, _, rfl⟩
  · exact ⟨[], [], [], [], by simp, .inl rfl, .inl rfl, .inl ⟨rfl, rfl⟩⟩
  · obtain ⟨conv, hconv, hconvHist⟩ := s.tappedIn_history 1 .tapConv (iqConvAt s.cfg ib) (iqConvAt s.cfg qb)
    have hconv' : conv = [] ∨ s.cfg.debugMode = 1 ∧ (∃ ib' qb', Instr.rawSample ib qb = .rawSample ib' qb') ∧
        ∃ x y, conv = [.out (.tapConv x y)] := hconv.imp_right fun ⟨hmode, hxy⟩ => ⟨hmode, ⟨_, _, rfl⟩, hxy⟩
    by_cases hphase : s.decimPhase + 1 = s.cfg.decim
    · obtain ⟨filt, hfilt, hfiltHist⟩ := { s.filtered ib qb with decimPhase := 0 }.tappedIn_history 3 .tapFilt
        (s.filtI.put s.cfg (iqConvAt s.cfg ib)).y (s.filtQ.put s.cfg (iqConvAt s.cfg qb)).y
      obtain ⟨decision, framing, hpath, hframing⟩ := (s.grouped ib qb).decimatedPath_history
        (s.filtI.put s.cfg (iqConvAt s.cfg ib)).y (s.filtQ.put s.cfg (iqConvAt s.cfg qb)).y
      have hgrouped : (s.grouped ib qb).history = s.history ++ conv ++ filt := by
        rw [State.grouped, hfiltHist, ← hconvHist]; rfl
      refine ⟨conv, filt, decision, framing, ?_, hconv', ?_, hframing⟩
      · rw [State.rawSample_completing hphase, hpath, hgrouped]
      · exact hfilt.imp_right fun ⟨hmode, hxy⟩ => ⟨by simpa using hmode, ⟨_, _, rfl⟩, hxy⟩
    · refine ⟨conv, [], [], [], ?_, hconv', .inl rfl, .inl ⟨rfl, rfl⟩⟩
      rw [State.rawSample_between hphase, State.filtered]
      simpa using hconvHist
  · obtain ⟨decision, framing, hpath, hframing⟩ :=
      s.decimatedPath_history (decodeNum s.cfg iv) (decodeNum s.cfg qv)
    exact ⟨[], [], decision, framing, by rw [State.cplxDecimated, hpath]; simp, .inl rfl, .inl rfl, hframing⟩

/-! ## Another debug mode (R143) -/

/-- The state with another debug mode and tap count, and with `past` before its history. -/
def State.retapped (m n : Nat) (past : List Event) (s : State) : State :=
  { s with cfg := { s.cfg with debugMode := m }, tapCount := n, history := past ++ s.history }

section retapped
variable (m n : Nat) (past : List Event) (b : Bool) (s : State)

theorem State.retapped_record (e : Event) :
    (s.record e).retapped m n past = (s.retapped m n past).record e := by
  simp [State.retapped, State.record]

theorem State.retapped_trace (t : TraceEvent) :
    (s.trace t).retapped m n past = (s.retapped m n past).trace t := s.retapped_record m n past _

theorem State.retapped_deliver : s.deliver.retapped m n past = (s.retapped m n past).deliver := by
  simp [State.retapped, State.deliver, State.emit, State.trace, State.record]

/-- A test that reads nothing of the taps commutes with `retapped` if both of its branches do. -/
theorem State.retapped_ite {c : Prop} [Decidable c] {x y x' y' : State} (hx : x.retapped m n past = x')
    (hy : y.retapped m n past = y') : (if c then x else y).retapped m n past = if c then x' else y' := by
  rw [apply_ite (State.retapped m n past), hx, hy]

theorem State.retapped_closeByte : s.closeByte.retapped m n past = (s.retapped m n past).closeByte :=
  State.retapped_ite m n past (State.retapped_deliver m n past _) rfl

theorem State.retapped_seekPreambleStep :
    (s.seekPreambleStep b).retapped m n past = (s.retapped m n past).seekPreambleStep b :=
  State.retapped_ite m n past (State.retapped_trace m n past _ _) rfl

theorem State.retapped_seekPreambleEndStep :
    (s.seekPreambleEndStep b).retapped m n past = (s.retapped m n past).seekPreambleEndStep b :=
  State.retapped_ite m n past (State.retapped_trace m n past _ _)
    (State.retapped_ite m n past (State.retapped_trace m n past _ _) rfl)

theorem State.retapped_dataHalf : (s.dataHalf b).retapped m n past = (s.retapped m n past).dataHalf b :=
  State.retapped_ite m n past (State.retapped_closeByte m n past _) rfl

theorem State.retapped_checkHalf : (s.checkHalf b).retapped m n past = (s.retapped m n past).checkHalf b :=
  State.retapped_ite m n past (State.retapped_trace m n past _ _)
    (State.retapped_ite m n past (State.retapped_closeByte m n past _) rfl)

theorem State.retapped_receivingStep :
    (s.receivingStep b).retapped m n past = (s.retapped m n past).receivingStep b :=
  congrArg State.flipParity
    (State.retapped_ite m n past (State.retapped_checkHalf m n past b s) (State.retapped_dataHalf m n past b s))

theorem State.retapped_fsmStep : (s.fsmStep b).retapped m n past = (s.retapped m n past).fsmStep b := by
  rcases s.fsmStep_cases b with ⟨hfsm, h⟩ | ⟨hfsm, h⟩ | ⟨hfsm, h⟩ <;> rw [h]
  · rw [State.fsmStep_of_seekPreamble b (s.retapped m n past) hfsm, ← State.retapped_seekPreambleStep]; rfl
  · rw [State.fsmStep_of_seekPreambleEnd b (s.retapped m n past) hfsm, ← State.retapped_seekPreambleEndStep]; rfl
  · rw [State.fsmStep_of_receiving b (s.retapped m n past) hfsm, ← State.retapped_receivingStep]; rfl

theorem State.retapped_reanchor : (s.reanchor b).retapped m n past = (s.retapped m n past).reanchor b := by
  rw [State.reanchor_eq, State.reanchor_eq]; rfl

theorem State.retapped_takeDecision :
    (s.takeDecision b).retapped m n past = (s.retapped m n past).takeDecision b := by
  refine State.retapped_ite m n past ?_ rfl
  rw [← State.retapped_trace, ← State.retapped_fsmStep]; rfl

theorem State.retapped_sliceBit : (s.sliceBit b).retapped m n past = (s.retapped m n past).sliceBit b := by
  rw [State.sliceBit, State.sliceBit, ← State.retapped_reanchor, ← State.retapped_takeDecision]; rfl

/-- The decimated path reads neither the debug mode nor what the taps have sent (R143, R144). -/
theorem State.retapped_decimatedPath (i q : NUM) :
    (s.decimatedPath i q).retapped m n past = (s.retapped m n past).decimatedPath i q :=
  State.retapped_sliceBit m n past (s.pairBit i q) (s.averagePower (magnitude s.cfg.num i q)).1

end retapped

/-! ## The modes 0, 1 and 3 (R143) -/

/-- A list of tap events, which are neither trace events nor packets (R308). -/
def OnlyTaps (l : List Event) : Prop := ∀ e ∈ l, (∃ x y, e = .out (.tapConv x y)) ∨ ∃ x y, e = .out (.tapFilt x y)

theorem OnlyTaps.append {l l' : List Event} (h : OnlyTaps l) (h' : OnlyTaps l') : OnlyTaps (l ++ l') :=
  fun e he => (List.mem_append.1 he).elim (h e) (h' e)

theorem OnlyTaps.traces_eq_nil {l : List Event} (h : OnlyTaps l) : l.filterMap Event.trace? = [] := by
  rw [List.filterMap_eq_nil_iff]
  intro e he
  rcases h e he with ⟨x, y, rfl⟩ | ⟨x, y, rfl⟩ <;> rfl

theorem OnlyTaps.packets_eq_nil {l : List Event} (h : OnlyTaps l) : packetsOf (l.filterMap Event.output?) = [] := by
  rw [packetsOf, List.filterMap_filterMap, List.filterMap_eq_nil_iff]
  intro e he
  rcases h e he with ⟨x, y, rfl⟩ | ⟨x, y, rfl⟩ <;> rfl

theorem State.tappedIn_onlyTaps (m : Nat) {mk : TapValue → TapValue → OutputEvent} (i q : NUM) (s : State)
    (hmk : mk = .tapConv ∨ mk = .tapFilt) :
    ∃ l, OnlyTaps l ∧ (s.tappedIn m mk i q).history = s.history ++ l := by
  obtain ⟨l, rfl | ⟨_, x, y, rfl⟩, hist⟩ := s.tappedIn_history m mk i q
  · exact ⟨[], fun e he => absurd he (by simp), hist⟩
  · refine ⟨_, fun e he => ?_, hist⟩
    obtain rfl : e = .out (mk x y) := by simpa using he
    rcases hmk with rfl | rfl
    · exact .inl ⟨x, y, rfl⟩
    · exact .inr ⟨x, y, rfl⟩

section modes
variable (ib qb : Byte) (s : State)

theorem State.filtered_onlyTaps : ∃ l, OnlyTaps l ∧ (s.filtered ib qb).history = s.history ++ l :=
  State.tappedIn_onlyTaps 1 _ _ s (.inl rfl)

theorem State.grouped_onlyTaps : ∃ l, OnlyTaps l ∧ (s.grouped ib qb).history = s.history ++ l := by
  obtain ⟨conv, hconv, hconvHist⟩ := s.filtered_onlyTaps ib qb
  obtain ⟨filt, hfilt, hfiltHist⟩ := State.tappedIn_onlyTaps 3 (s.filtI.put s.cfg (iqConvAt s.cfg ib)).y
    (s.filtQ.put s.cfg (iqConvAt s.cfg qb)).y { s.filtered ib qb with decimPhase := 0 } (.inr rfl)
  refine ⟨conv ++ filt, hconv.append hfilt, ?_⟩
  rw [State.grouped, hfiltHist, hconvHist, List.append_assoc]

/-- A RAW_SAMPLE's run with no tap, from an empty history (R140): what the modes 0, 1 and 3 have in common. -/
def State.untapped : State :=
  let u := { s with cfg := { s.cfg with debugMode := 0 }, tapCount := 0, history := [],
                    filtI := s.filtI.put s.cfg (iqConvAt s.cfg ib), filtQ := s.filtQ.put s.cfg (iqConvAt s.cfg qb) }
  if s.decimPhase + 1 = s.cfg.decim then { u with decimPhase := 0 }.decimatedPath u.filtI.y u.filtQ.y
  else { u with decimPhase := s.decimPhase + 1 }

/-- A RAW_SAMPLE is its untapped run, but for the debug mode, the tap count and the tap events. -/
theorem State.rawSample_eq_retapped :
    ∃ n taps, OnlyTaps taps ∧
      s.rawSample ib qb = (s.untapped ib qb).retapped s.cfg.debugMode n (s.history ++ taps) := by
  by_cases hphase : s.decimPhase + 1 = s.cfg.decim
  · obtain ⟨taps, htaps, hist⟩ := s.grouped_onlyTaps ib qb
    refine ⟨(s.grouped ib qb).tapCount, taps, htaps, ?_⟩
    rw [State.rawSample_completing hphase, State.untapped, if_pos hphase, State.retapped_decimatedPath,
      State.grouped_frame, hist]
    simp only [State.retapped, List.append_nil]
  · obtain ⟨taps, htaps, hist⟩ := s.filtered_onlyTaps ib qb
    refine ⟨(s.filtered ib qb).tapCount, taps, htaps, ?_⟩
    rw [State.rawSample_between hphase, State.untapped, if_neg hphase, State.filtered_frame, hist]
    simp only [State.retapped, List.append_nil]

end modes

section views
variable (m n : Nat) (past : List Event) (s : State)

theorem State.retapped_traces : (s.retapped m n past).traces = past.filterMap Event.trace? ++ s.traces :=
  List.filterMap_append ..

theorem packetsOf_append (l l' : List OutputEvent) : packetsOf (l ++ l') = packetsOf l ++ packetsOf l' :=
  List.filterMap_append ..

theorem State.retapped_packets :
    packetsOf (s.retapped m n past).events = packetsOf (past.filterMap Event.output?) ++ packetsOf s.events := by
  rw [← packetsOf_append, State.events, State.events, State.retapped, List.filterMap_append]

end views

theorem exec_rawSample_eq_next {ib qb : Byte} {s t : State}
    (hmode : s.cfg.debugMode = 0 ∨ s.cfg.debugMode = 1 ∨ s.cfg.debugMode = 3)
    (h : exec (.rawSample ib qb) s = .next t) : t = s.rawSample ib qb := by
  have hhalt : s.halted = false := (accept_eq_next h).1
  exact Host.Outcome.next.inj (h.symm.trans (exec_rawSample_of_admitted hhalt hmode))

/-- The state with another debug mode. -/
def State.withMode (m : Nat) (s : State) : State := { s with cfg := { s.cfg with debugMode := m } }

/-- Settles O21: both runs are one untapped run with a mode's taps, which are neither traces nor packets. -/
theorem tapsDoNotChangeBlockState : Obligations.TapsDoNotChangeBlockState := by
  intro s t u ib qb m n hm hn ht hu
  obtain rfl := exec_rawSample_eq_next (s := s.withMode m) hm ht
  obtain rfl := exec_rawSample_eq_next (s := s.withMode n) hn hu
  obtain ⟨jm, tapsm, htapsm, hrunm⟩ := (s.withMode m).rawSample_eq_retapped ib qb
  obtain ⟨jn, tapsn, htapsn, hrunn⟩ := (s.withMode n).rawSample_eq_retapped ib qb
  have hsame : (s.withMode n).untapped ib qb = (s.withMode m).untapped ib qb := rfl
  rw [hrunm, hrunn, hsame]
  have hpackets : ∀ {taps : List Event}, OnlyTaps taps →
      packetsOf ((s.history ++ taps).filterMap Event.output?) = packetsOf (s.history.filterMap Event.output?) := by
    intro taps htaps
    rw [List.filterMap_append, packetsOf_append, htaps.packets_eq_nil, List.append_nil]
  refine ⟨rfl, ?_, ?_⟩
  · simp only [State.retapped_traces, List.filterMap_append, htapsm.traces_eq_nil, htapsn.traces_eq_nil]
    rfl
  · rw [State.retapped_packets, State.retapped_packets]
    exact congrArg (· ++ _) ((hpackets htapsn).trans (hpackets htapsm).symm)

end Sys2Proof.Machine

/-!
# The slicer's clock

How far ahead the next decision is (10_state.md R45 (a)) determines the slicer: a sample at distance 0 is decided and
puts the next decision `SPB - 1` ahead of the next sample, any other brings it one nearer, and a transition first puts
it at `SPB div 2` (43_bit_slicer.md R221, R222). The two indices themselves, and their width, play no part.
-/

namespace Sys2Proof

/-! ## Distances on a counter that wraps -/

theorem mod_cases {a M : Nat} (ha : a < 2 * M) : a < M ∧ a % M = a ∨ M ≤ a ∧ a % M = a - M := by
  rcases Nat.lt_or_ge a M with h | h
  · exact .inl ⟨h, Nat.mod_eq_of_lt h⟩
  · exact .inr ⟨h, by rw [Nat.mod_eq_sub_mod h, Nat.mod_eq_of_lt (by omega)]⟩

/-- What stands `k` ahead on a counter of `M` values is `k` away. -/
theorem distance_ahead {M i k : Nat} (hi : i < M) (hk : k < M) : ((i + k) % M + M - i) % M = k := by
  rcases mod_cases (show i + k < 2 * M by omega) with ⟨_, h⟩ | ⟨_, h⟩ <;> rw [h]
  · rw [show i + k + M - i = k + M by omega, Nat.add_mod_right, Nat.mod_eq_of_lt hk]
  · rw [show i + k - M + M - i = k by omega, Nat.mod_eq_of_lt hk]

/-- Every value of the counter stands its distance ahead. -/
theorem ahead_distance {M i j : Nat} (hi : i < M) (hj : j < M) : (i + (j + M - i) % M) % M = j := by
  rw [Nat.add_mod_mod, show i + (j + M - i) = j + M by omega, Nat.add_mod_right, Nat.mod_eq_of_lt hj]

end Sys2Proof

namespace Sys2Proof.Machine

/-- What the slicer's arithmetic needs of a well-formed configuration (R31, R228). -/
structure SlicerConfig (c : Config) : Prop where
  spb_pos : 1 ≤ c.spb
  spb_lt : c.spb < 2 ^ c.wCnt

section distance
variable {s : State}

/-- A next decision `k` samples ahead, `k` less than a bit period, is what the invariant asks. -/
theorem State.slicerInv_of_ahead {k : Nat} (hcfg : SlicerConfig s.cfg) (hidx : s.sampleIdx < 2 ^ s.cfg.wCnt)
    (hk : k < s.cfg.spb) (hnext : s.nextDecision = (s.sampleIdx + k) % 2 ^ s.cfg.wCnt) :
    s.SlicerInv ∧ s.decisionDistance = k := by
  have hdist : s.decisionDistance = k := by
    rw [State.decisionDistance, hnext]
    exact distance_ahead hidx (hk.trans hcfg.spb_lt)
  exact ⟨⟨hidx, hnext ▸ Nat.mod_lt _ (Nat.two_pow_pos _), hdist ▸ hk⟩, hdist⟩

theorem State.SlicerInv.nextDecision_eq (h : s.SlicerInv) :
    s.nextDecision = (s.sampleIdx + s.decisionDistance) % 2 ^ s.cfg.wCnt :=
  (ahead_distance h.idx_lt h.next_lt).symm

/-- The sample is a decision sample exactly at distance 0. -/
theorem State.SlicerInv.decision_iff (h : s.SlicerInv) (hcfg : SlicerConfig s.cfg) :
    s.sampleIdx = s.nextDecision ↔ s.decisionDistance = 0 := by
  have hlt : s.decisionDistance < 2 ^ s.cfg.wCnt := h.distance_lt.trans hcfg.spb_lt
  have hnext := h.nextDecision_eq
  have hidx := h.idx_lt
  generalize s.decisionDistance = d at *
  generalize 2 ^ s.cfg.wCnt = M at *
  rcases mod_cases (show s.sampleIdx + d < 2 * M by omega) with ⟨_, hmod⟩ | ⟨_, hmod⟩ <;> omega

/-- The distance once a raw bit has re-anchored the clock (R221). -/
theorem State.reanchor_slicerInv (h : s.SlicerInv) (hcfg : SlicerConfig s.cfg) (b : Bool) :
    (s.reanchor b).SlicerInv ∧
      (s.reanchor b).decisionDistance = if b = s.lastBit then s.decisionDistance else s.cfg.spb / 2 := by
  have hpos := hcfg.spb_pos
  have hreanchor := s.reanchor_eq b
  by_cases hb : b = s.lastBit
  · rw [if_pos hb] at hreanchor ⊢
    exact State.slicerInv_of_ahead (by rwa [hreanchor]) (by rw [hreanchor]; exact h.idx_lt)
      (by rw [hreanchor]; exact h.distance_lt) (by rw [hreanchor]; exact h.nextDecision_eq)
  · rw [if_neg hb] at hreanchor ⊢
    exact State.slicerInv_of_ahead (by rwa [hreanchor]) (by rw [hreanchor]; exact h.idx_lt)
      (by rw [hreanchor]; show s.cfg.spb / 2 < s.cfg.spb; omega) (by rw [hreanchor]; rfl)

@[simp] theorem State.sliceBit_cfg (b : Bool) (s : State) : (s.sliceBit b).cfg = s.cfg := by
  rw [State.sliceBit_frame]; rfl

/-- One sample at distance `d` (R221, R222): `BIT` and a new bit period at 0, one sample nearer elsewhere. -/
theorem State.sliceBit_distance (h : s.SlicerInv) (hcfg : SlicerConfig s.cfg) (b : Bool) :
    (s.sliceBit b).SlicerInv ∧
    ((s.reanchor b).decisionDistance = 0 ∧ (s.sliceBit b).decisionDistance = s.cfg.spb - 1 ∧
        s.sliceBit b = { ((s.reanchor b).trace (.bit b)).fsmStep b with
          nextDecision := (s.sliceBit b).nextDecision, sampleIdx := (s.sliceBit b).sampleIdx } ∨
      (s.reanchor b).decisionDistance ≠ 0 ∧
        (s.sliceBit b).decisionDistance = (s.reanchor b).decisionDistance - 1 ∧
        s.sliceBit b = { s.reanchor b with sampleIdx := (s.sliceBit b).sampleIdx }) := by
  obtain ⟨hinv, _⟩ := State.reanchor_slicerInv h hcfg b
  have hidx : (s.reanchor b).sampleIdx = s.sampleIdx := by rw [s.reanchor_eq b]
  have hcfg' : (s.reanchor b).cfg = s.cfg := by rw [s.reanchor_eq b]
  have hdec := hinv.decision_iff (by rwa [hcfg'])
  have hnext := hinv.nextDecision_eq
  have hlt := hinv.distance_lt
  rw [hidx, hcfg'] at *
  have hidxlt : (s.sliceBit b).sampleIdx < 2 ^ (s.sliceBit b).cfg.wCnt := by
    rw [State.sliceBit_sampleIdx, State.sliceBit_cfg]; exact Nat.mod_lt _ (Nat.two_pow_pos _)
  rcases s.sliceBit_cases b with ⟨heq, hstep⟩ | ⟨hne, hstep⟩
  · have hzero := hdec.1 heq
    have hahead := State.slicerInv_of_ahead (s := s.sliceBit b) (k := s.cfg.spb - 1) (by simpa using hcfg) hidxlt
      (by have := hcfg.spb_pos; simp; omega) (by
        have := hcfg.spb_pos
        rw [State.sliceBit_sampleIdx, State.sliceBit_cfg, hstep, hnext, hzero]
        simp only [Config.addW, Nat.mod_add_mod]
        congr 1; omega)
    refine ⟨hahead.1, .inl ⟨hzero, hahead.2, ?_⟩⟩
    rw [hstep]
  · have hzero : (s.reanchor b).decisionDistance ≠ 0 := fun h0 => hne (hdec.2 h0)
    have hahead := State.slicerInv_of_ahead (s := s.sliceBit b) (k := (s.reanchor b).decisionDistance - 1)
      (by simpa using hcfg) hidxlt (by simp; omega) (by
        rw [State.sliceBit_sampleIdx, State.sliceBit_cfg, hstep]
        show (s.reanchor b).nextDecision = _
        rw [hnext]
        simp only [Config.addW, Nat.mod_add_mod]
        congr 1; omega)
    refine ⟨hahead.1, .inr ⟨hzero, hahead.2, ?_⟩⟩
    rw [hstep]

end distance

end Sys2Proof.Machine

/-!
# The configuration

The checks of 10_state.md R31 read as one proposition, and what the converter and the codec read under it
(40_transactions.md R142, 30_encoding.md R114).
-/

namespace Sys2Proof

/-- A constant of the session: a finite binary32 pattern, or a rational, by the domain (R31). -/
def Config.IsConstant (c : Config) (v : NUM) : Prop :=
  (c.num = .binary32 ∧ ∃ w, v = .f32 (.val w) ∧ w.extractLsb' 23 8 ≠ 0xFF#8) ∨ (c.num = .exact ∧ ∃ q, v = .exact q)

theorem Config.constantOk_iff (c : Config) (v : NUM) : c.constantOk v = true ↔ c.IsConstant v := by
  unfold Config.constantOk Config.IsConstant
  cases hnum : c.num with
  | binary32 =>
    match v with
    | .f32 (.val w) => simp [NUM.inDomain, NUM.finite, F32.finite, Machine.finiteBits_eq_true_iff]
    | .f32 .nan => simp [NUM.inDomain, NUM.finite, F32.finite]
    | .exact q => simp [NUM.inDomain]
  | exact => cases v <;> simp [NUM.inDomain, NUM.finite]

theorem Config.all_constantOk_iff (c : Config) (l : List NUM) :
    l.all c.constantOk = true ↔ ∀ v ∈ l, c.IsConstant v := by
  simp only [List.all_eq_true, Config.constantOk_iff]

theorem Config.cfgNum_eq_true (c : Config) : c.cfgNum = true := by
  unfold Config.cfgNum; cases c.num <;> rfl

theorem Config.cfgRaMode_eq_true (c : Config) : c.cfgRaMode = true := by
  unfold Config.cfgRaMode; cases c.raMode <;> rfl

/-- R31's checks, each said of the parameters. -/
theorem Config.wellFormed_iff (c : Config) :
    c.wellFormed = true ↔
      1 ≤ c.decim ∧ 1 ≤ c.spb ∧ c.spb < 2 ^ c.wCnt ∧ 1 ≤ c.minTrans ∧ c.debugMode ≤ 3 ∧
      (c.iqConv.length = 256 ∧ ∀ v ∈ c.iqConv, c.IsConstant v) ∧
      1 ≤ c.nb ∧ (c.b.length = c.nb ∧ ∀ v ∈ c.b, c.IsConstant v) ∧
      1 ≤ c.na ∧ (c.a.length = c.na - 1 ∧ ∀ v ∈ c.a, c.IsConstant v) ∧ 2 ≤ c.wCnt := by
  simp only [Config.wellFormed, Config.cfgDecimPos, Config.cfgSpbPos, Config.cfgSpbFits, Config.cfgMinPos,
    Config.cfgModeRange, Config.cfgNum_eq_true, Config.cfgIqFinite, Config.cfgNbPos, Config.cfgBFinite,
    Config.cfgNaPos, Config.cfgAFinite, Config.cfgRaMode_eq_true, Config.cfgWcnt, Bool.and_eq_true, decide_eq_true_eq,
    Config.all_constantOk_iff, and_true, and_assoc]

/-- Settles O23: the mode's range and the feedback length are said in the obligation's words. -/
theorem configIsWellFormedExactlyWhenTheChecksHold : Obligations.ConfigIsWellFormedExactlyWhenTheChecksHold := by
  intro c
  have hmode : c.debugMode ≤ 3 ↔ c.debugMode = 0 ∨ c.debugMode = 1 ∨ c.debugMode = 2 ∨ c.debugMode = 3 := by omega
  have hna : (1 ≤ c.na ∧ c.a.length = c.na - 1) ↔ (1 ≤ c.na ∧ c.a.length + 1 = c.na) := by omega
  rw [Config.wellFormed_iff, hmode]
  constructor
  · rintro ⟨h1, h2, h3, h4, h5, ⟨h6, h7⟩, h8, ⟨h9, h10⟩, h11, ⟨h12, h13⟩, h14⟩
    exact ⟨h1, h2, h3, h4, h5, h6, h7, h8, h9, h10, h11, (hna.1 ⟨h11, h12⟩).2, h13, h14⟩
  · rintro ⟨h1, h2, h3, h4, h5, h6, h7, h8, h9, h10, h11, h12, h13, h14⟩
    exact ⟨h1, h2, h3, h4, h5, ⟨h6, h7⟩, h8, ⟨h9, h10⟩, h11, ⟨(hna.2 ⟨h11, h12⟩).2, h13⟩, h14⟩

theorem Config.IsConstant.inDomain {c : Config} {v : NUM} (h : c.IsConstant v) : NUM.inDomain c.num v = true := by
  rcases h with ⟨hnum, w, rfl, _⟩ | ⟨hnum, q, rfl⟩ <;> rw [hnum] <;> rfl

end Sys2Proof

namespace Sys2Proof.Machine

theorem slicerConfig_of_wellFormed {c : Config} (h : c.wellFormed = true) : SlicerConfig c := by
  obtain ⟨_, hpos, hfits, _⟩ := (Config.wellFormed_iff c).1 h
  exact ⟨hpos, hfits⟩

theorem iqConvAt_of_getElem? {c : Config} {b : Byte} {x : NUM} (hx : c.iqConv[b.toNat]? = some x)
    (hconst : c.IsConstant x) : iqConvAt c b = x := by
  rw [iqConvAt, List.getD_eq_getElem?_getD, hx, Option.getD_some, NUM.lit_of_inDomain hconst.inDomain]

/-- Settles O24: a byte indexes a table of 256 constants, and reading a constant leaves it as it is. -/
theorem iqConvertReadsTheTable : Obligations.IqConvertReadsTheTable := by
  intro c ib qb hwf
  obtain ⟨_, _, _, _, _, ⟨hlen, hconst⟩, _⟩ := (Config.wellFormed_iff c).1 hwf
  have hread : ∀ b : Byte, ∃ x, c.iqConv[b.toNat]? = some x ∧ iqConvAt c b = x := by
    intro b
    have hb : b.toNat < c.iqConv.length := hlen ▸ b.isLt
    have hx := List.getElem?_eq_getElem hb
    exact ⟨_, hx, iqConvAt_of_getElem? hx (hconst _ (List.getElem_mem hb))⟩
  obtain ⟨x, hx, hix⟩ := hread ib
  obtain ⟨y, hy, hiy⟩ := hread qb
  exact ⟨x, y, hx, hy, by rw [iqConvert, hix, hiy]⟩

end Sys2Proof.Machine

/-!
# The invariants of a good state

Each register range of 10_state.md R44 and R45 is kept by the operation that writes it: the framing ranges by
`FSM_STEP`, the slicer's by one sliced bit, the shapes by the datapath. A step runs one of these, or a reset, which gives
the first good state of the next session, or writes nothing that the invariant reads. The sample clock of R45 (f) goes one
on with each decimated sample.
-/

namespace Sys2Proof.Machine

/-! ## The framing ranges (R38, R39, R45 (b) to (e)) -/

section framing
variable {s : State} (b : Bool)

theorem State.FramingInv.seekPreamble (h : s.FramingInv) (hfsm : s.fsmState = .seekPreamble) :
    (s.fsmStep b).FramingInv := by
  have htrans := h.trans_lt
  rw [State.fsmStep_of_seekPreamble b s hfsm]
  rcases s.seekPreambleStep_cases b with ⟨_, hstep⟩ | ⟨hne, hstep⟩ <;> rw [hstep]
  · exact ⟨by simp; omega, by simp, by simp, by simp, h.bit_le, h.bit_check, by simp, by simp, h.fill_le, by simp⟩
  · refine ⟨?_, fun hne' => absurd hfsm hne', h.zero_le, h.zero_zero, h.bit_le, h.bit_check, h.bit_data, h.bit_half,
      h.fill_le, h.fill_receiving⟩
    show (if b != s.prevBit then s.transCnt + 1 else 0) < s.cfg.minTrans
    by_cases hdiff : (b != s.prevBit) = true
    · rw [if_pos hdiff] at hne ⊢; omega
    · rw [if_neg hdiff]; omega

theorem State.FramingInv.seekPreambleEnd (h : s.FramingInv) (hfsm : s.fsmState = .seekPreambleEnd) :
    (s.fsmStep b).FramingInv := by
  have htrans : s.transCnt = 0 := h.trans_zero (by simp [hfsm])
  rw [State.fsmStep_of_seekPreambleEnd b s hfsm]
  rcases s.seekPreambleEndStep_cases b with ⟨_, hstep⟩ | ⟨_, _, hstep⟩ | ⟨_, hne, hstep⟩ <;> rw [hstep]
  · exact ⟨h.trans_lt, by simp, by simp, by simp, h.bit_le, h.bit_check, by simp, by simp, h.fill_le, by simp⟩
  · exact ⟨h.trans_lt, fun _ => htrans, by simp, by simp, by simp, by simp, by simp, by simp, by simp, by simp⟩
  · have hzero := h.zero_le
    refine ⟨h.trans_lt, fun _ => htrans, ?_, fun hne' => absurd hfsm hne', h.bit_le, h.bit_check, ?_, ?_, h.fill_le,
      h.fill_receiving⟩
    · show s.zeroCnt + 1 ≤ 3
      simp only [termZeros] at hne
      omega
    · simp [hfsm]
    · simp [hfsm]

/-- A byte that closes in `Receiving`, whatever the accumulator and the bit count were. -/
theorem State.FramingInv.closeByte (h : s.FramingInv) (hfsm : s.fsmState = .receiving) (acc : Byte) (bits : Nat)
    (hhalf : s.parity = false → s.cfg.lastHalfCheck = false) :
    ({ s with acc := acc, bitCnt := bits }.closeByte.flipParity.setPrevBit b).FramingInv := by
  have htrans : s.transCnt = 0 := h.trans_zero (by simp [hfsm])
  have hzero : s.zeroCnt = 0 := h.zero_zero (by simp [hfsm])
  have hfill : s.fill + 1 ≤ pktCap := Nat.succ_le_succ (h.fill_receiving hfsm)
  rcases State.closeByte_cases { s with acc := acc, bitCnt := bits } with ⟨_, hclose⟩ | ⟨hne, hclose⟩ <;> rw [hclose]
  · exact ⟨by simpa using h.trans_lt, by simp [htrans], by simp [hzero], by simp [hzero], by simp, by simp, by simp,
      by simp, by simpa using hfill, by simp⟩
  · refine ⟨by simpa using h.trans_lt, by simp [htrans], by simp [hzero], by simp [hzero], by simp, by simp, by simp,
      ?_, by simpa using hfill, ?_⟩
    · intro _ hparity
      exact .inr ⟨by simpa using hhalf (by simpa using hparity), by simp⟩
    · simp only [pktCap] at hfill hne
      simp only [State.setPrevBit_fill, State.flipParity_fill]
      omega

theorem State.FramingInv.dataHalf (h : s.FramingInv) (hfsm : s.fsmState = .receiving) (hparity : s.parity = false) :
    ((s.dataHalf b).flipParity.setPrevBit b).FramingInv := by
  have htrans : s.transCnt = 0 := h.trans_zero (by simp [hfsm])
  have hzero : s.zeroCnt = 0 := h.zero_zero (by simp [hfsm])
  have hbit := h.bit_data hfsm hparity
  rcases s.dataHalf_cases b with ⟨hlhc, hseven, hdata⟩ | ⟨hopen, hdata⟩ <;> rw [hdata]
  · exact h.closeByte b hfsm _ _ fun _ => hlhc
  · refine ⟨h.trans_lt, fun _ => htrans, by simp [State.shiftIn, hzero], fun _ => hzero, ?_, ?_, ?_, ?_, h.fill_le,
      h.fill_receiving⟩
    · show s.bitCnt + 1 ≤ 8
      omega
    · show s.bitCnt + 1 = 8 → s.cfg.lastHalfCheck = true
      intro h8
      cases hlhc : s.cfg.lastHalfCheck
      · exact absurd ⟨hlhc, by omega⟩ hopen
      · rfl
    · simp [State.shiftIn, hparity]
    · simp [State.shiftIn]

theorem State.FramingInv.checkHalf (h : s.FramingInv) (hfsm : s.fsmState = .receiving) (hparity : s.parity = true) :
    ((s.checkHalf b).flipParity.setPrevBit b).FramingInv := by
  have htrans : s.transCnt = 0 := h.trans_zero (by simp [hfsm])
  have hzero : s.zeroCnt = 0 := h.zero_zero (by simp [hfsm])
  have hbit := h.bit_le
  rcases s.checkHalf_cases b with ⟨_, hcheck⟩ | ⟨_, _, _, hcheck⟩ | ⟨_, hopen, hcheck⟩ <;> rw [hcheck]
  · exact ⟨h.trans_lt, fun _ => htrans, by simp [hzero], fun _ => hzero, h.bit_le, h.bit_check, by simp, by simp,
      h.fill_le, by simp⟩
  · exact h.closeByte b hfsm s.acc s.bitCnt (by simp [hparity])
  · refine ⟨h.trans_lt, fun _ => htrans, by simp [hzero], fun _ => hzero, h.bit_le, h.bit_check, ?_, ?_, h.fill_le,
      h.fill_receiving⟩
    · intro _ _
      show s.bitCnt ≤ 7
      by_contra hgt
      have h8 : s.bitCnt = 8 := by omega
      exact hopen ⟨h.bit_check h8, h8⟩
    · simp [hparity]

/-- `FSM_STEP` keeps the framing and packet registers in their ranges. -/
theorem State.FramingInv.fsmStep (h : s.FramingInv) : (s.fsmStep b).FramingInv := by
  rcases s.fsmStep_cases b with ⟨hfsm, _⟩ | ⟨hfsm, _⟩ | ⟨hfsm, hstep⟩
  · exact h.seekPreamble b hfsm
  · exact h.seekPreambleEnd b hfsm
  · rw [hstep]
    rcases s.receivingStep_cases b with ⟨hparity, hrecv⟩ | ⟨hparity, hrecv⟩ <;> rw [hrecv]
    · exact h.dataHalf b hfsm hparity
    · exact h.checkHalf b hfsm hparity

/-- The framing ranges read the framing registers and the configuration alone. -/
theorem State.FramingInv.congr {t : State} (h : s.FramingInv) (hcfg : t.cfg = s.cfg)
    (hframing : t = { t.withFraming s with history := t.history }) : t.FramingInv := by
  rw [hframing]
  exact ⟨hcfg ▸ h.trans_lt, h.trans_zero, h.zero_le, h.zero_zero, h.bit_le, hcfg ▸ h.bit_check, h.bit_data,
    hcfg ▸ h.bit_half, h.fill_le, h.fill_receiving⟩

/-- One sliced bit is one `FSM_STEP` at a decision, and none elsewhere (R222). -/
theorem State.FramingInv.sliceBit (h : s.FramingInv) : (s.sliceBit b).FramingInv := by
  have hreanchor : (s.reanchor b).FramingInv := h.congr (by rw [s.reanchor_eq b]) (by rw [s.reanchor_eq b]; rfl)
  have htrace : ((s.reanchor b).trace (.bit b)).FramingInv := hreanchor.congr rfl rfl
  rcases s.sliceBit_cases b with ⟨_, hstep⟩ | ⟨_, hstep⟩ <;> rw [hstep]
  · exact (htrace.fsmStep b).congr rfl rfl
  · exact hreanchor.congr rfl rfl

end framing

/-! ## A good state (R44, R45) -/

theorem State.SlicerInv.congr {s t : State} (h : s.SlicerInv) (hcfg : t.cfg = s.cfg)
    (hidx : t.sampleIdx = s.sampleIdx) (hnext : t.nextDecision = s.nextDecision) : t.SlicerInv := by
  have hdist : t.decisionDistance = s.decisionDistance := by
    rw [State.decisionDistance, State.decisionDistance, hcfg, hidx, hnext]
  exact ⟨by rw [hidx, hcfg]; exact h.idx_lt, by rw [hnext, hcfg]; exact h.next_lt,
    by rw [hdist, hcfg]; exact h.distance_lt⟩

theorem State.HaltInv.congr {s t : State} (h : s.HaltInv) (hhalt : t.halted = s.halted)
    (hcause : t.haltCause = s.haltCause) : t.HaltInv :=
  ⟨by rw [hcause, hhalt]; exact h.none_iff, by rw [hcause]; exact h.not_reserved⟩

section good
variable {s t : State}

/-- What no invariant reads: the refusal mark, the history, the port and the tap count. The halt state is its own. -/
theorem State.Inv.of_unread (h : s.Inv) (hhalt : t.HaltInv)
    (hframe : t = { s with halted := t.halted, haltCause := t.haltCause, refused := t.refused,
                           history := t.history, port := t.port, tapCount := t.tapCount }) : t.Inv := by
  have hcfg : t.cfg = s.cfg := by rw [hframe]
  refine ⟨hcfg ▸ h.cfg_ok, ?_, ?_, ?_, ?_, ?_, h.slicer.congr hcfg (by rw [hframe]) (by rw [hframe]),
    h.framing.congr hcfg (by rw [hframe]; rfl), hhalt⟩
  · rw [hframe]; exact h.filtI_fits
  · rw [hframe]; exact h.filtQ_fits
  · rw [hframe]; exact h.phase_lt
  · rw [hframe]; exact h.env_fits
  · rw [hframe]; exact h.base_fits

theorem State.Inv.consume (h : s.Inv) : s.consume.Inv :=
  h.of_unread (h.halt.congr (by simp) (by simp)) (by obtain ⟨p, hp⟩ := s.consume_eq; rw [hp])

theorem State.Inv.markRefused (h : s.Inv) (r : RefusalReason) : (s.markRefused r).Inv :=
  h.of_unread (h.halt.congr rfl rfl) rfl

theorem State.Inv.tappedIn (h : s.Inv) (m : Nat) (mk : TapValue → TapValue → OutputEvent) (i q : NUM) :
    (s.tappedIn m mk i q).Inv :=
  h.of_unread (h.halt.congr (by rw [State.tappedIn_frame]) (by rw [State.tappedIn_frame]))
    (by rw [State.tappedIn_frame])

/-- An abort input presents a cause other than `NONE` (R302, R303). -/
theorem State.Inv.takeAbort (h : s.Inv) {cause : BitVec 2} (hcause : cause ≠ 0#2) : (s.takeAbort cause).Inv := by
  rcases s.takeAbort_cases cause with ⟨_, htake⟩ | ⟨_, _, htake⟩ | ⟨hthree, _, htake⟩ <;> rw [htake]
  · exact h.markRefused _
  · exact h
  · exact h.of_unread ⟨by simp [hcause], hthree⟩ rfl

theorem forall_mem_replicate_inDomain (d : NumDomain) (n : Nat) :
    ∀ v ∈ List.replicate n (NUM.zero d), NUM.inDomain d v = true := by
  intro v hv
  rw [List.eq_of_mem_replicate hv]
  exact NUM.inDomain_zero d

theorem FilterState.initial_fits (c : Config) : (FilterState.initial c).Fits c :=
  ⟨List.length_replicate, List.length_replicate, forall_mem_replicate_inDomain _ _,
    forall_mem_replicate_inDomain _ _, NUM.inDomain_zero _⟩

theorem RunningAverage.initial_fits (d : NumDomain) {w : Nat} (hw : 0 < w) : (RunningAverage.initial d w).Fits d w :=
  ⟨List.length_replicate, forall_mem_replicate_inDomain _ _, NUM.inDomain_zero _, hw, Nat.zero_le _⟩

/-- A session starts in a good state (R350). -/
theorem State.initial_inv {c : Config} (hwf : c.wellFormed = true) : (State.initial c).Inv := by
  obtain ⟨hdecim, hspb, hfits, hmin, _⟩ := (Config.wellFormed_iff c).1 hwf
  refine ⟨hwf, FilterState.initial_fits c, FilterState.initial_fits c, hdecim, RunningAverage.initial_fits _ hspb,
    RunningAverage.initial_fits _ (Nat.mul_pos (by norm_num) hspb), ?_, ?_, ?_⟩
  · exact (State.slicerInv_of_ahead (s := State.initial c) (k := 0) ⟨hspb, hfits⟩ (Nat.two_pow_pos _) hspb (Nat.zero_mod _).symm).1
  · exact ⟨hmin, fun _ => rfl, by simp [State.initial], fun _ => rfl, by simp [State.initial], by simp [State.initial],
      by simp [State.initial], by simp [State.initial], by simp [State.initial], by simp [State.initial]⟩
  · exact ⟨by simp [State.initial], by simp [State.initial]⟩

theorem State.Inv.takeReset (h : s.Inv) (r : ResetInput) : (s.takeReset r).Inv := by
  rcases s.takeReset_cases r with ⟨_, hwf, htake⟩ | ⟨_, htake⟩ <;> rw [htake]
  · have hinit := State.initial_inv hwf
    exact hinit.of_unread (hinit.halt.congr rfl rfl) rfl
  · exact h.markRefused _

/-- One decimated sample (R144): both averages take their shapes on, and one bit is sliced. -/
theorem State.Inv.decimatedPath (h : s.Inv) (i q : NUM) : (s.decimatedPath i q).Inv := by
  have heffect := s.decimatedPath_effect i q
  have hframe := heffect.frame
  have hcfg : (s.decimatedPath i q).cfg = s.cfg := by rw [hframe]; rfl
  have hslicer : (s.averagePower (magnitude s.cfg.num i q)).1.SlicerInv := h.slicer.congr rfl rfl rfl
  have hframing : (s.averagePower (magnitude s.cfg.num i q)).1.FramingInv := h.framing.congr rfl rfl
  refine ⟨hcfg ▸ h.cfg_ok, ?_, ?_, ?_, ?_, ?_, ?_, ?_, ?_⟩
  · rw [hframe]; exact h.filtI_fits
  · rw [hframe]; exact h.filtQ_fits
  · rw [hframe]; exact h.phase_lt
  · rw [heffect.env_eq, hcfg]
    exact RunningAverage.update_fits (magnitude_inDomain ..) h.env_fits
  · rw [heffect.base_eq, hcfg]
    exact RunningAverage.update_fits (RunningAverage.update_mean_inDomain ..) h.base_fits
  · exact (State.sliceBit_distance hslicer (slicerConfig_of_wellFormed h.cfg_ok) _).1
  · exact hframing.sliceBit _
  · exact h.halt.congr (by rw [hframe]; rfl) (by rw [hframe]; rfl)

/-- The two puts of a RAW_SAMPLE, and any phase in range (R140, R180). -/
theorem State.Inv.filtered (h : s.Inv) (ib qb : Byte) {k : Nat} (hk : k < s.cfg.decim) :
    State.Inv { s.filtered ib qb with decimPhase := k } := by
  have hput : ∀ b f, f.Fits s.cfg → (FilterState.put s.cfg (iqConvAt s.cfg b) f).Fits s.cfg :=
    fun b _ hf => FilterState.put_fits (NUM.inDomain_lit ..) hf
  rw [State.filtered_frame]
  exact ⟨h.cfg_ok, hput ib _ h.filtI_fits, hput qb _ h.filtQ_fits, hk, h.env_fits, h.base_fits,
    h.slicer.congr rfl rfl rfl, h.framing.congr rfl rfl, h.halt.congr rfl rfl⟩

theorem State.Inv.rawSample (h : s.Inv) (ib qb : Byte) : (s.rawSample ib qb).Inv := by
  have hlt := h.phase_lt
  by_cases hphase : s.decimPhase + 1 = s.cfg.decim
  · rw [State.rawSample_completing hphase]
    exact ((h.filtered ib qb (by omega)).tappedIn ..).decimatedPath _ _
  · rw [State.rawSample_between hphase]
    exact h.filtered ib qb (by omega)

end good

/-- The next input is an abort only for a cause other than `NONE` (R302). -/
theorem State.nextInput_abort_ne_zero {s : State} {cause : BitVec 2} (h : s.nextInput = .abort cause) :
    cause ≠ 0#2 := by
  unfold State.nextInput at h
  split at h
  · cases h
  next p _ _ =>
    unfold Presented.first at h
    split at h
    · cases h
    · split at h
      · split at h <;> cases h
      next hne =>
        obtain rfl := Input.abort.inj h
        exact hne

/-- Settles O58: by what the step's input does to a good state. -/
theorem everyStepKeepsTheInvariant : Obligations.EveryStepKeepsTheInvariant := by
  intro s t h hstep
  rcases step_cases hstep with ⟨_, rfl⟩ | ⟨r, _, rfl⟩ | ⟨cause, hinput, rfl⟩ | ⟨_, r, _, _, rfl⟩ |
    ⟨_, ib, qb, _, _, _, _, rfl⟩ | ⟨_, iv, qv, _, _, _, _, rfl⟩
  · exact h.consume
  · exact h.consume.takeReset r
  · exact h.consume.takeAbort (State.nextInput_abort_ne_zero hinput)
  · exact h.consume.markRefused r
  · exact h.consume.rawSample ib qb
  · exact h.consume.decimatedPath _ _

/-! ## The sample clock (R45 (f)) -/

section clock
variable {s t : State}

/-- The sample clock reads the configuration, the two averages and the sample index alone. -/
theorem State.SampleClock.congr (h : s.SampleClock) (hcfg : t.cfg = s.cfg) (henv : t.env = s.env)
    (hbase : t.base = s.base) (hidx : t.sampleIdx = s.sampleIdx) : t.SampleClock := by
  unfold State.SampleClock
  rw [hcfg, henv, hbase, hidx]
  exact h

theorem State.initial_sampleClock (c : Config) : (State.initial c).SampleClock :=
  ⟨0, (Nat.zero_mod _).symm, (Nat.zero_min _).symm, (Nat.zero_min _).symm, (Nat.zero_mod _).symm, (Nat.zero_mod _).symm⟩

/-- An update counts on by one, up to the window, and moves the slot on by one, around it (R210). -/
theorem RunningAverage.update_clock {r : RunningAverage} {w n : Nat} (d : NumDomain) (m : RaMode) (v : NUM)
    (hcount : r.count = min n w) (hpos : r.pos = n % w) :
    (r.update d m w v).1.count = min (n + 1) w ∧ (r.update d m w v).1.pos = (n + 1) % w := by
  constructor
  · show (if r.count < w then r.count + 1 else r.count) = _
    split <;> omega
  · show (r.pos + 1) % w = _
    rw [hpos, Nat.mod_add_mod]

theorem State.SampleClock.decimatedPath (h : s.SampleClock) (i q : NUM) : (s.decimatedPath i q).SampleClock := by
  obtain ⟨n, hidx, henvCount, hbaseCount, henvPos, hbasePos⟩ := h
  have heffect := s.decimatedPath_effect i q
  have hcfg : (s.decimatedPath i q).cfg = s.cfg := by rw [heffect.frame]; rfl
  have henv := RunningAverage.update_clock s.cfg.num s.cfg.raMode (magnitude s.cfg.num i q) henvCount henvPos
  have hbase := RunningAverage.update_clock s.cfg.num s.cfg.raMode
    (s.env.update s.cfg.num s.cfg.raMode s.cfg.spb (magnitude s.cfg.num i q)).2 hbaseCount hbasePos
  refine ⟨n + 1, ?_, ?_⟩
  · rw [heffect.idx_eq, hcfg, hidx, Nat.mod_add_mod]
  · rw [heffect.env_eq, heffect.base_eq, hcfg]
    exact ⟨henv.1, hbase.1, henv.2, hbase.2⟩

theorem State.SampleClock.rawSample (h : s.SampleClock) (ib qb : Byte) : (s.rawSample ib qb).SampleClock := by
  by_cases hphase : s.decimPhase + 1 = s.cfg.decim
  · rw [State.rawSample_completing hphase]
    refine State.SampleClock.decimatedPath ?_ _ _
    rw [State.grouped_frame]
    exact h.congr rfl rfl rfl rfl
  · rw [State.rawSample_between hphase, State.filtered_frame]
    exact h.congr rfl rfl rfl rfl

theorem State.SampleClock.markRefused (h : s.SampleClock) (r : RefusalReason) : (s.markRefused r).SampleClock :=
  h.congr rfl rfl rfl rfl

theorem State.SampleClock.takeReset (h : s.SampleClock) (r : ResetInput) : (s.takeReset r).SampleClock := by
  rcases s.takeReset_cases r with ⟨_, _, htake⟩ | ⟨_, htake⟩ <;> rw [htake]
  · exact (State.initial_sampleClock r.config).congr rfl rfl rfl rfl
  · exact h.markRefused _

theorem State.SampleClock.takeAbort (h : s.SampleClock) (cause : BitVec 2) : (s.takeAbort cause).SampleClock := by
  rcases s.takeAbort_cases cause with ⟨_, htake⟩ | ⟨_, _, htake⟩ | ⟨_, _, htake⟩ <;> rw [htake]
  · exact h.markRefused _
  · exact h
  · exact h.congr rfl rfl rfl rfl

end clock

/-- Settles O59: a decimated sample counts on by one, and a reset starts the count again. -/
theorem everyStepKeepsTheSampleClock : Obligations.EveryStepKeepsTheSampleClock := by
  intro s t _ h hstep
  have hconsume : s.consume.SampleClock := h.congr (by simp) (by simp) (by simp) (by simp)
  rcases step_cases hstep with ⟨_, rfl⟩ | ⟨r, _, rfl⟩ | ⟨cause, _, rfl⟩ | ⟨_, r, _, _, rfl⟩ |
    ⟨_, ib, qb, _, _, _, _, rfl⟩ | ⟨_, iv, qv, _, _, _, _, rfl⟩
  · exact hconsume
  · exact hconsume.takeReset r
  · exact hconsume.takeAbort cause
  · exact hconsume.markRefused r
  · exact hconsume.rawSample ib qb
  · exact hconsume.decimatedPath _ _

/-- Settles O57: the reference configuration is well-formed, so its session starts in a good state. -/
theorem resetStateIsGood : Obligations.ResetStateIsGood :=
  ⟨State.initial_inv Tests.test_reference_well_formed, State.initial_sampleClock _⟩

end Sys2Proof.Machine

/-!
# Inputs, steps and refusals

A step takes the first input off the port (60_exceptions.md R311): which one that is, and what stays, is read off the
presentation once; each obligation on inputs is then what the taken input does. A word's refusal is the first check of
30_encoding.md R115 that applies, which the decoder and the acceptance test make between them.
-/

namespace Sys2Proof.Machine

/-! ## The input a step takes (R311) -/

section port
variable {s : State} {p : Presented} {rest : List Presented}

theorem step_of_reset {r : ResetInput} (hport : s.port = p :: rest) (hreset : p.reset = some r) :
    step s = .next (State.takeReset r { s with port := Presented.returnTo { p with reset := none } rest }) := by
  simp [step, State.nextInput, State.consume, Presented.first, Presented.remaining, hport, hreset]

theorem step_of_abort (hport : s.port = p :: rest) (hreset : p.reset = none) (habort : p.abort ≠ 0#2) :
    step s = .next (State.takeAbort p.abort { s with port := Presented.returnTo { p with abort := 0#2 } rest }) := by
  simp [step, State.nextInput, State.consume, Presented.first, Presented.remaining, hport, hreset, habort]

theorem step_of_txn {T : Txn} (hport : s.port = p :: rest) (hreset : p.reset = none) (habort : p.abort = 0#2)
    (htxn : p.txn = some T) : step s = runWord T { s with port := rest } := by
  simp [step, State.nextInput, State.consume, Presented.first, Presented.remaining, Presented.returnTo,
    Presented.isEmpty, hport, hreset, habort, htxn]

theorem step_of_empty_port (hport : s.port = []) : step s = idle s := by
  simp [step, State.nextInput, State.consume, hport]

end port

/-- While halted no word runs, whether it decodes or not (R303). -/
theorem runWord_of_halted {s : State} (hhalt : s.halted = true) (T : Txn) :
    runWord T s = .fault (.halted s.haltCause) := by
  unfold runWord
  cases decode T with
  | error r => exact accept_of_halted hhalt
  | ok i => cases i <;> exact accept_of_halted hhalt

theorem runWord_of_decode {T : Txn} {i : Instr} (hdec : decode T = .ok i) (s : State) : runWord T s = exec i s := by
  rw [runWord, hdec]

theorem State.takeReset_of_wellFormed {r : ResetInput} (hstable : r.stable = true) (hwf : r.config.wellFormed = true)
    (s : State) : s.takeReset r =
      { State.initial r.config with refused := s.refused, port := s.port, tapCount := s.tapCount } := by
  rcases s.takeReset_cases r with ⟨_, _, htake⟩ | ⟨hnot, _⟩
  · exact htake
  · exact absurd ⟨hstable, hwf⟩ hnot

theorem State.takeAbort_of_running {cause : BitVec 2} (hcause : cause ≠ 3#2) {s : State} (hhalt : s.halted = false) :
    s.takeAbort cause = { s with halted := true, haltCause := cause }.trace (.halt cause) := by
  rcases s.takeAbort_cases cause with ⟨heq, _⟩ | ⟨_, hhalted, _⟩ | ⟨_, _, htake⟩
  · exact absurd heq hcause
  · rw [hhalt] at hhalted; cases hhalted
  · exact htake

/-! ## Obligations on one step's input -/

/-- Settles O6: the word stands alone, so it is the input taken. -/
theorem stepRunsTheDecodedTransaction : Obligations.StepRunsTheDecodedTransaction := by
  intro s T rest i hport hdec _
  rw [step_of_txn hport rfl rfl rfl, runWord_of_decode hdec]

@[simp] theorem Presented.returnTo_ofTxn (T : Txn) (rest : List Presented) :
    (Presented.ofTxn T).returnTo rest = .ofTxn T :: rest := by
  simp [Presented.returnTo, Presented.isEmpty, Presented.ofTxn]

/-- Settles O7: by which input is first; the second step of each chain finds the transaction alone on the port. -/
theorem inputsAreTakenInPriorityOrder : Obligations.InputsAreTakenInPriorityOrder := by
  refine ⟨fun s p rest hport => ⟨fun r hreset => step_of_reset hport hreset,
    fun hreset habort => step_of_abort hport hreset habort,
    fun T hreset habort htxn => step_of_txn hport hreset habort htxn⟩, ?_, ?_⟩
  · intro s cause T rest hcause hhalt hport
    have hne : cause ≠ 0#2 ∧ cause ≠ 3#2 := by rcases hcause with rfl | rfl <;> decide
    have habort := step_of_abort hport rfl hne.1
    have htake := State.takeAbort_of_running (s := { s with port := Presented.returnTo (.ofTxn T) rest }) hne.2 hhalt
    refine ⟨_, habort.trans (congrArg Host.Outcome.next htake), rfl, ?_⟩
    rw [step_of_txn (p := .ofTxn T) (rest := rest) (Presented.returnTo_ofTxn T rest) rfl rfl rfl]
    exact runWord_of_halted rfl T
  · intro s c T rest hwf hport
    have hreset := step_of_reset hport rfl
    have htake := State.takeReset_of_wellFormed (r := ⟨c, true⟩) rfl hwf
      { s with port := Presented.returnTo (.ofTxn T) rest }
    exact ⟨_, hreset.trans (congrArg Host.Outcome.next htake), rfl, rfl,
      step_of_txn (p := .ofTxn T) (rest := rest) (Presented.returnTo_ofTxn T rest) rfl rfl rfl⟩

/-- Settles O8: acceptance asks for a block that is not halted, and so does the end of the input. -/
theorem haltedBlockRunsNothing : Obligations.HaltedBlockRunsNothing := by
  intro s hhalt
  refine ⟨fun i => ?_, runWord_of_halted hhalt, fun hport => ?_⟩
  · cases i <;> exact accept_of_halted hhalt
  · rw [step_of_empty_port hport]
    simp [idle, hhalt, hport]

/-- Settles O9: the end of the input is no fault for a block that is not halted. -/
theorem idleBlockHoldsItsState : Obligations.IdleBlockHoldsItsState := by
  intro s hhalt hport
  rw [step_of_empty_port hport]
  simp [idle, hhalt]

/-- Settles O10: by the cases of the abort. -/
theorem abortHaltsTheBlock : Obligations.AbortHaltsTheBlock := by
  intro s cause rest hport
  have htake : cause ≠ 0#2 → step s = .next (State.takeAbort cause { s with port := rest }) :=
    fun hne => step_of_abort hport rfl hne
  refine ⟨fun hthree => ?_, fun hcause hhalt => ?_, fun hcause hhalt => ?_⟩
  · rw [htake (by rw [hthree]; decide), hthree]; rfl
  · have hne : cause ≠ 0#2 ∧ cause ≠ 3#2 := by rcases hcause with rfl | rfl <;> decide
    rw [htake hne.1]
    simp [State.takeAbort, hne.2, hhalt]
  · have hne : cause ≠ 0#2 ∧ cause ≠ 3#2 := by rcases hcause with rfl | rfl <;> decide
    rw [htake hne.1]
    exact congrArg Host.Outcome.next (State.takeAbort_of_running (s := { s with port := rest }) hne.2 hhalt)

/-- Settles O11: the reset answers the initial state of its configuration, with the refusal mark kept. -/
theorem resetGivesEveryRegisterItsValue : Obligations.ResetGivesEveryRegisterItsValue := by
  intro s c rest hwf hport
  have htake := State.takeReset_of_wellFormed (r := ⟨c, true⟩) rfl hwf { s with port := rest }
  refine ⟨_, (step_of_reset hport rfl).trans (congrArg Host.Outcome.next htake), rfl, ?_, rfl, rfl, rfl, ?_, rfl, rfl,
    rfl, rfl, rfl, rfl, rfl, rfl, rfl, rfl, fun k hk => ?_, rfl, rfl, rfl, rfl, rfl, rfl, rfl⟩
  · rintro f (rfl | rfl) <;> exact ⟨rfl, rfl, rfl⟩
  · rintro r (rfl | rfl) <;> exact ⟨rfl, rfl, rfl⟩
  · simp [State.initial, hk]

/-- Settles O12: a refused reset is the mark alone. -/
theorem illFormedResetIsRefused : Obligations.IllFormedResetIsRefused := by
  intro s r rest hbad hport
  rw [step_of_reset hport rfl]
  rcases State.takeReset_cases r { s with port := rest } with ⟨hstable, hwf, _⟩ | ⟨_, htake⟩
  · rw [hstable, hwf] at hbad
    simp at hbad
  · exact congrArg Host.Outcome.next htake

/-! ## Obligations on every step -/

/-- Settles O13: while halted there is no transaction to run, and an abort keeps the first cause. -/
theorem onlyResetLeavesTheHaltedState : Obligations.OnlyResetLeavesTheHaltedState := by
  intro s t hhalt hnoReset hstep
  obtain ⟨port, hconsume⟩ := s.consume_eq
  rcases step_cases hstep with ⟨_, rfl⟩ | ⟨r, hinput, _⟩ | ⟨cause, _, rfl⟩ | ⟨_, _, _, hrun, _⟩ |
    ⟨_, _, _, _, _, hrun, _⟩ | ⟨_, _, _, _, _, hrun, _⟩
  · rw [hconsume]
  · exact absurd hinput (hnoReset r)
  · rcases s.consume.takeAbort_cases cause with ⟨_, htake⟩ | ⟨_, _, htake⟩ | ⟨_, hrun, _⟩
    · rw [htake, hconsume]; rfl
    · rw [htake, hconsume]
    · rw [State.consume_halted, hhalt] at hrun; cases hrun
  all_goals rw [hhalt] at hrun; cases hrun

/-- Settles O14: every input keeps the mark or puts a reason of its own in it. -/
theorem refusalMarkIsNeverCleared : Obligations.RefusalMarkIsNeverCleared := by
  intro s t hstep hmark
  rw [← s.consume_refused] at hmark
  rcases step_cases hstep with ⟨_, rfl⟩ | ⟨r, _, rfl⟩ | ⟨cause, _, rfl⟩ | ⟨_, r, _, _, rfl⟩ |
    ⟨_, ib, qb, _, _, _, _, rfl⟩ | ⟨_, iv, qv, _, _, _, _, rfl⟩
  · exact hmark
  · rcases s.consume.takeReset_cases r with ⟨_, _, htake⟩ | ⟨_, htake⟩ <;> rw [htake]
    · exact hmark
    · simp
  · rcases s.consume.takeAbort_cases cause with ⟨_, htake⟩ | ⟨_, _, htake⟩ | ⟨_, _, htake⟩ <;> rw [htake]
    · simp
    · exact hmark
    · exact hmark
  · simp
  · rw [State.rawSample_frame]; exact hmark
  · rw [State.cplxDecimated_frame]; exact hmark

/-- Settles O15: only a reset input latches a configuration. -/
theorem configurationChangesOnlyAtReset : Obligations.ConfigurationChangesOnlyAtReset := by
  intro s t hnoReset hstep
  rw [← s.consume_cfg]
  rcases step_cases hstep with ⟨_, rfl⟩ | ⟨r, hinput, _⟩ | ⟨cause, _, rfl⟩ | ⟨_, r, _, _, rfl⟩ |
    ⟨_, ib, qb, _, _, _, _, rfl⟩ | ⟨_, iv, qv, _, _, _, _, rfl⟩
  · rfl
  · exact absurd hinput (hnoReset r)
  · rcases s.consume.takeAbort_cases cause with ⟨_, htake⟩ | ⟨_, _, htake⟩ | ⟨_, _, htake⟩ <;> rw [htake] <;> rfl
  · rfl
  · exact State.rawSample_cfg ib qb _
  · rw [State.cplxDecimated_frame]; rfl

/-! ## The order of the refusal checks (R115) -/

theorem expField_low (T : Txn) : (T.extractLsb' 0 32).extractLsb' 23 8 = T.extractLsb' 23 8 := by
  apply BitVec.eq_of_getLsbD_eq
  intro k hk
  simp [hk]

theorem expField_high (T : Txn) : (T.extractLsb' 32 32).extractLsb' 23 8 = T.extractLsb' 55 8 := by
  apply BitVec.eq_of_getLsbD_eq
  intro k hk
  simp [hk, show 23 + k < 32 by omega, show 32 + (23 + k) = 55 + k by omega]

section refusal
variable {c : Config} {T : Txn}

theorem firstRefusal_of_reservedKind (hkind : kindField T = 0b10#2 ∨ kindField T = 0b11#2) :
    firstRefusal c T = some .reservedKind :=
  if_pos hkind

theorem firstRefusal_of_raw (hkind : kindField T = 0b00#2) (hres : rawReserved T = 0#48) :
    firstRefusal c T = rawRefusal c := by
  unfold kindField at hkind
  unfold rawReserved at hres
  by_cases hmode : c.debugMode = 0 ∨ c.debugMode = 1 ∨ c.debugMode = 3
  · rw [(rawRefusal_eq_none_iff c).2 hmode]
    simp [firstRefusal, hkind, hres, hmode]
  · rw [rawRefusal_of_not_admitted hmode]
    simp [firstRefusal, hkind, hmode]

theorem firstRefusal_of_raw_reserved (hkind : kindField T = 0b00#2) (hres : rawReserved T ≠ 0#48) :
    firstRefusal c T = some (wordRefusal c .reservedBits) := by
  unfold kindField at hkind
  unfold rawReserved at hres
  by_cases hmode : c.debugMode = 0 ∨ c.debugMode = 1 ∨ c.debugMode = 3
  · simp [firstRefusal, hkind, hres, hmode, wordRefusal, (rawAdmitted_iff c).2 hmode]
  · have hadmit : rawAdmitted c = false := by rw [← Bool.not_eq_true, rawAdmitted_iff]; exact hmode
    simp [firstRefusal, hkind, hmode, wordRefusal, hadmit]

theorem firstRefusal_of_cplx (hkind : kindField T = 0b01#2) :
    firstRefusal c T = cplxRefusal c (T.extractLsb' 0 32) (T.extractLsb' 32 32) := by
  unfold kindField at hkind
  by_cases hmode : c.debugMode = 2
  · by_cases hinf : T.extractLsb' 23 8 = 0xFF#8 ∨ T.extractLsb' 55 8 = 0xFF#8
    · rw [cplxRefusal_of_nonfinite hmode (by rwa [expField_low, expField_high])]
      simp [firstRefusal, hkind, hmode, hinf]
    · obtain ⟨hiv, hqv⟩ := not_or.1 hinf
      rw [(cplxRefusal_eq_none_iff ..).2 ⟨hmode, by rwa [finiteBits_eq_true_iff, expField_low],
        by rwa [finiteBits_eq_true_iff, expField_high]⟩]
      simp [firstRefusal, hkind, hmode, hinf]
  · rw [cplxRefusal_of_not_admitted _ _ hmode]
    simp [firstRefusal, hkind, hmode]

end refusal

/-- A word is run on a block that is not halted with R115's refusal, and without one it decodes. -/
theorem runWord_cases {s : State} (hhalt : s.halted = false) (T : Txn) :
    (∃ r, firstRefusal s.cfg T = some r ∧ runWord T s = .next (s.markRefused r)) ∨
    (firstRefusal s.cfg T = none ∧ ∃ i, decode T = .ok i ∧ i.wellFormed = true ∧
      ∃ t, exec i s = .next t ∧ t.refused = s.refused) := by
  rcases decode_cases T with ⟨hkind, hres, hdec⟩ | ⟨hkind, hres, hdec⟩ | ⟨hkind, hdec⟩ | ⟨hkind, hdec⟩
  · rw [firstRefusal_of_raw hkind hres]
    cases href : rawRefusal s.cfg with
    | some r => exact .inl ⟨r, rfl, by rw [runWord_of_decode hdec]; exact accept_of_refusal hhalt href⟩
    | none =>
      exact .inr ⟨rfl, _, hdec, rfl, _, accept_of_accepted hhalt href, by rw [State.rawSample_frame]; rfl⟩
  · refine .inl ⟨_, firstRefusal_of_raw_reserved hkind hres, ?_⟩
    rw [runWord, hdec]
    exact accept_of_refusal hhalt rfl
  · rw [firstRefusal_of_cplx hkind]
    cases href : cplxRefusal s.cfg (T.extractLsb' 0 32) (T.extractLsb' 32 32) with
    | some r => exact .inl ⟨r, rfl, by rw [runWord_of_decode hdec]; exact accept_of_refusal hhalt href⟩
    | none =>
      obtain ⟨_, hiv, hqv⟩ := (cplxRefusal_eq_none_iff ..).1 href
      exact .inr ⟨rfl, _, hdec, by rw [Instr.wellFormed, hiv, hqv]; rfl, _, accept_of_accepted hhalt href,
        by rw [State.cplxDecimated_frame]; rfl⟩
  · refine .inl ⟨_, firstRefusal_of_reservedKind hkind, ?_⟩
    rw [runWord, hdec]
    exact accept_of_refusal hhalt rfl

/-- Settles O5: by the decoder's cases, each against its own part of R115's list. -/
theorem refusalsFollowTheCheckOrder : Obligations.RefusalsFollowTheCheckOrder := by
  intro s T hhalt
  rcases runWord_cases hhalt T with ⟨r, hfirst, hrun⟩ | ⟨hfirst, i, hdec, hwf, t, hexec, hmark⟩ <;> rw [hfirst]
  · refine ⟨fun r' hr' => ?_, nofun⟩
    obtain rfl := Option.some.inj hr'
    exact hrun
  · exact ⟨nofun, fun _ => ⟨i, hdec, hwf, runWord_of_decode hdec s, t, hexec, hmark⟩⟩

/-! ## What leaves at a tap (R308) -/

theorem nanBits_nanPattern (w : BitVec 32) : nanBits (nanPattern w) = true := by
  unfold nanPattern
  split
  next hnan => exact hnan
  next => decide

/-- Settles O22: by whether the value has bits of its own. -/
theorem tapValuesKeepTheirBits : Obligations.TapValuesKeepTheirBits := by
  refine fun n => ⟨fun w hw => ?_, fun x hx => ?_, fun q => rfl⟩
  · simp [tapValue, NUM.toF32, hw]
  · refine ⟨nanPattern (Config.freeTapBits n), ?_, nanBits_nanPattern _⟩
    cases x with
    | nan => rfl
    | val w =>
      have hw : nanBits w = true := hx
      simp [tapValue, NUM.toF32, hw]

end Sys2Proof.Machine

/-!
# Decisions in time

The distance to the next decision (10_state.md R45 (a)) counts down to 0 and starts again at `SPB - 1`, so the decisions of a steady raw bit
are those of a counter (43_bit_slicer.md R222, R224); a transition sets it (R221). A NaN in the envelope sum goes through every
later update and makes every comparison false (41_filter_pair.md R171).
-/

namespace Sys2Proof.Machine

/-! ## The bits decided -/

theorem decidedBits_append (l l' : List TraceEvent) : decidedBits (l ++ l') = decidedBits l ++ decidedBits l' :=
  List.filterMap_append ..

theorem FramingEvents.decidedBits_eq_nil {l : List Event} (h : FramingEvents l) :
    decidedBits (l.filterMap Event.trace?) = [] := by
  cases h <;> rfl

theorem State.fsmStep_decidedBits (b : Bool) (s : State) : decidedBits (s.fsmStep b).traces = decidedBits s.traces := by
  obtain ⟨l, hl, hist⟩ := s.fsmStep_history b
  rw [State.traces, hist, List.filterMap_append, decidedBits_append, hl.decidedBits_eq_nil, List.append_nil]; rfl

section steady
variable {s : State}

/-- A sample decides its raw bit exactly when the re-anchored clock is at distance 0 (R221, R222). -/
theorem State.sliceBit_decidedBits (h : s.SlicerInv) (hcfg : SlicerConfig s.cfg) (b : Bool) :
    decidedBits (s.sliceBit b).traces =
      decidedBits s.traces ++ if (s.reanchor b).decisionDistance = 0 then [b] else [] := by
  have hhist : (s.reanchor b).history = s.history := by rw [s.reanchor_eq b]
  have htraces : (s.reanchor b).traces = s.traces := congrArg (List.filterMap Event.trace?) hhist
  obtain ⟨_, ⟨hzero, _, hslice⟩ | ⟨hpos, _, hslice⟩⟩ := State.sliceBit_distance h hcfg b
  · have hdecided : decidedBits (s.sliceBit b).traces = decidedBits (((s.reanchor b).trace (.bit b)).fsmStep b).traces := by
      rw [hslice]; rfl
    rw [if_pos hzero, hdecided, State.fsmStep_decidedBits, State.trace_traces, htraces, decidedBits_append]; rfl
  · have hdecided : (s.sliceBit b).traces = (s.reanchor b).traces := by rw [hslice]; rfl
    rw [if_neg hpos, hdecided, htraces, List.append_nil]

/-- With the raw bit as it was, the clock is not re-anchored. -/
theorem State.reanchor_lastBit (s : State) : s.reanchor s.lastBit = s := by
  rw [s.reanchor_eq s.lastBit, if_pos rfl]

theorem State.sliceBit_steady_distance (h : s.SlicerInv) (hcfg : SlicerConfig s.cfg) :
    (s.sliceBit s.lastBit).decisionDistance =
      if s.decisionDistance = 0 then s.cfg.spb - 1 else s.decisionDistance - 1 := by
  have hdist := (State.sliceBit_distance h hcfg s.lastBit).2
  rw [s.reanchor_lastBit] at hdist
  rcases hdist with ⟨hzero, hnext, _⟩ | ⟨hpos, hnext, _⟩
  · rw [if_pos hzero, hnext]
  · rw [if_neg hpos, hnext]

end steady

/-- The decisions among `n + 1` samples of which the first is `d` before a decision. -/
theorem count_decisions_succ {spb d : Nat} (n : Nat) (hspb : 1 ≤ spb) (hd : d < spb) :
    (n + 1 + spb - 1 - d) / spb =
      (if d = 0 then 1 else 0) + (n + spb - 1 - (if d = 0 then spb - 1 else d - 1)) / spb := by
  split
  next hzero =>
    rw [show n + 1 + spb - 1 - d = n + spb by omega, show n + spb - 1 - (spb - 1) = n by omega,
      Nat.add_div_right _ hspb, Nat.add_comm]
  next hpos =>
    rw [show n + spb - 1 - (d - 1) = n + 1 + spb - 1 - d by omega, Nat.zero_add]

theorem State.iterate_sliceBit_steady (b : Bool) (n : Nat) : ∀ s : State, s.lastBit = b → SlicerConfig s.cfg → s.SlicerInv →
    decidedBits ((State.sliceBit b)^[n] s).traces = decidedBits s.traces ++
      List.replicate ((n + s.cfg.spb - 1 - s.decisionDistance) / s.cfg.spb) b ∧
    ((State.sliceBit b)^[n] s).sampleIdx = (s.sampleIdx + n) % 2 ^ s.cfg.wCnt ∧
    ((State.sliceBit b)^[n] s).SlicerInv := by
  induction n with
  | zero =>
    intro s _ hcfg h
    have hnone : (0 + s.cfg.spb - 1 - s.decisionDistance) / s.cfg.spb = 0 :=
      Nat.div_eq_of_lt (by have := hcfg.spb_pos; omega)
    exact ⟨by rw [hnone, List.replicate_zero, List.append_nil]; rfl, (Nat.mod_eq_of_lt h.idx_lt).symm, h⟩
  | succ n ih =>
    intro s hb hcfg h
    subst hb
    have hone := State.sliceBit_decidedBits h hcfg s.lastBit
    rw [s.reanchor_lastBit] at hone
    obtain ⟨hbits, hidx, hinv⟩ := ih (s.sliceBit s.lastBit) (s.sliceBit_lastBit _) (by simpa using hcfg)
      (State.sliceBit_distance h hcfg _).1
    rw [State.sliceBit_cfg] at hbits hidx
    rw [Function.iterate_succ_apply]
    refine ⟨?_, ?_, hinv⟩
    · rw [hbits, hone, State.sliceBit_steady_distance h hcfg, count_decisions_succ n hcfg.spb_pos h.distance_lt,
        List.replicate_add, List.append_assoc]
      split <;> rfl
    · rw [hidx, State.sliceBit_sampleIdx, Config.addW, Nat.mod_add_mod, Nat.add_assoc, Nat.add_comm 1]

/-- Settles O41: by induction on the samples, with the raw bit and the distance in hand. -/
theorem decisionsComeOncePerBitPeriod : Obligations.DecisionsComeOncePerBitPeriod :=
  fun s n hwf h => State.iterate_sliceBit_steady s.lastBit n s rfl (slicerConfig_of_wellFormed hwf) h

/-- With `SPB = 1` the distance is always 0 (R226). -/
theorem State.foldl_sliceBit_decidedBits (bits : List Bool) : ∀ s : State, s.cfg.spb = 1 → SlicerConfig s.cfg →
    s.SlicerInv → decidedBits (bits.foldl (fun u x => u.sliceBit x) s).traces = decidedBits s.traces ++ bits := by
  induction bits with
  | nil => intro s _ _ _; rw [List.foldl_nil, List.append_nil]
  | cons b bits ih =>
    intro s hspb hcfg h
    have hlt := (State.reanchor_slicerInv h hcfg b).1.distance_lt
    have hzero : (s.reanchor b).decisionDistance = 0 := by
      rw [s.reanchor_eq b] at hlt ⊢
      have : s.cfg.spb = 1 := hspb
      simp only at hlt
      omega
    rw [List.foldl_cons, ih (s.sliceBit b) (by simpa using hspb) (by simpa using hcfg)
      (State.sliceBit_distance h hcfg b).1, State.sliceBit_decidedBits h hcfg, if_pos hzero, List.append_assoc,
      List.singleton_append]

/-- Settles O42: a transition puts the distance at `SPB div 2`, which is not 0 unless `SPB` is 1. -/
theorem transitionReanchorsTheClock : Obligations.TransitionReanchorsTheClock := by
  intro s b hwf h
  have hcfg := slicerConfig_of_wellFormed hwf
  refine ⟨fun hspb hb => ?_, fun hspb bits => State.foldl_sliceBit_decidedBits bits s hspb hcfg h,
    s.sliceBit_lastBit b, (State.sliceBit_distance h hcfg b).1⟩
  have hanchor := (State.reanchor_slicerInv h hcfg b).2
  rw [if_neg hb] at hanchor
  have hhist : (s.reanchor b).history = s.history := by rw [s.reanchor_eq b]
  obtain ⟨_, ⟨hzero, _⟩ | ⟨_, hdist, hslice⟩⟩ := State.sliceBit_distance h hcfg b
  · omega
  · exact ⟨by rw [hslice]; exact hhist, by rw [hdist, hanchor]⟩

/-! ## A NaN in the envelope sum (R171) -/

/-- An update of a NaN sum leaves a NaN sum and a NaN mean (R210, R171). -/
theorem RunningAverage.update_of_nan_sum {r : RunningAverage} (h : r.sum = .f32 .nan) (m : RaMode) (w : Nat) (v : NUM) :
    (r.update .binary32 m w v).1.sum = .f32 .nan ∧ (r.update .binary32 m w v).2 = .f32 .nan := by
  unfold RunningAverage.update
  rw [h]
  exact ⟨rfl, rfl⟩

theorem State.slice_of_nan_sum {s : State} (hnum : s.cfg.num = .binary32) (hsum : s.env.sum = .f32 .nan) (p : NUM) :
    s.slice p = (s.averagePower p).1.sliceBit false ∧ (s.slice p).env.sum = .f32 .nan := by
  obtain ⟨hsum', hmean⟩ := RunningAverage.update_of_nan_sum hsum s.cfg.raMode s.cfg.wEnv p
  have hslice : s.slice p = (s.averagePower p).1.sliceBit false := by
    rw [State.slice, s.averagePower_eq, hnum, hmean]; rfl
  refine ⟨hslice, ?_⟩
  rw [hslice, State.sliceBit_env, s.averagePower_eq, hnum]
  exact hsum'

theorem State.sliceBit_decidedBits_append (b : Bool) (s : State) :
    ∃ k, decidedBits (s.sliceBit b).traces = decidedBits s.traces ++ List.replicate k b := by
  obtain ⟨l, hl, hist⟩ := s.sliceBit_history b
  rw [State.traces, hist, List.filterMap_append, decidedBits_append]
  rcases hl with rfl | ⟨f, hf, rfl⟩
  · exact ⟨0, rfl⟩
  · refine ⟨1, congrArg (decidedBits s.traces ++ ·) ?_⟩
    rw [List.replicate_one, ← hf.decidedBits_eq_nil]; rfl

/-- Settles O43: by induction on the samples; each raw bit compares a NaN. -/
theorem nanSumSlicesToZeroForGood : Obligations.NanSumSlicesToZeroForGood := by
  intro ps
  induction ps with
  | nil => exact fun s _ hsum => ⟨hsum, by simp, 0, (List.append_nil _).symm⟩
  | cons p ps ih =>
    intro s hnum hsum
    obtain ⟨hslice, hsum'⟩ := State.slice_of_nan_sum hnum hsum p
    have hcfg : (s.slice p).cfg = s.cfg := by rw [hslice, State.sliceBit_cfg]; rfl
    obtain ⟨k, hk⟩ := State.sliceBit_decidedBits_append false (s.averagePower p).1
    obtain ⟨hend, hlast, k', hk'⟩ := ih (s.slice p) (by rw [hcfg, hnum]) hsum'
    refine ⟨hend, fun _ => ?_, k + k', ?_⟩
    · cases ps with
      | nil => exact (congrArg State.lastBit hslice).trans (State.sliceBit_lastBit ..)
      | cons p' ps => exact hlast (List.cons_ne_nil p' ps)
    · rw [List.foldl_cons, hk', hslice, hk, List.append_assoc, ← List.replicate_add]; rfl

end Sys2Proof.Machine

/-!
# Frames

One half in `Receiving` by its parity (44_framing.md R256 to R259), then a whole frame. After `j` valid pairs the
accumulator holds the last data halves and the buffer the bytes closed so far (R262); the pair that follows keeps this,
fails (R258), or is the eightieth and delivers (R263).
-/

namespace Sys2Proof.Machine

/-! ## One half (R256 to R262) -/

theorem shiftLeft_or_eq_append (x : Byte) (b : Bool) :
    (x <<< 1) ||| (if b then 1#8 else 0#8) = x.extractLsb' 0 7 ++ BitVec.ofBool b := by
  apply BitVec.eq_of_getLsbD_eq
  intro i hi
  rw [show BitVec.getLsbD (x.extractLsb' 0 7 ++ BitVec.ofBool b) i = _ from BitVec.getLsbD_append ..]
  rcases i with _ | i
  · cases b <;> simp
  · have hi8 : i < 8 := by omega
    cases b <;> simp [hi, show i < 7 by omega, BitVec.getLsbD_eq_getElem hi8]

section half
variable {s : State} (b : Bool)

@[simp] theorem State.closeByte_acc (s : State) : s.closeByte.acc = s.acc := by
  rcases s.closeByte_cases with ⟨_, hclose⟩ | ⟨_, hclose⟩ <;> rw [hclose]
  rfl

theorem State.closeByte_of_open (hfill : s.fill + 1 < 10) :
    s.closeByte = { s with pkt := s.pkt.setIfInBounds s.fill s.acc, fill := s.fill + 1, bitCnt := 0 } := by
  rcases s.closeByte_cases with ⟨hten, _⟩ | ⟨_, hclose⟩
  · exact absurd hten (Nat.ne_of_lt hfill)
  · exact hclose

theorem State.closeByte_of_tenth (hfill : s.fill = 9) :
    s.closeByte =
      { s with pkt := s.pkt.setIfInBounds 9 s.acc, fill := 10, bitCnt := 0, fsmState := .seekPreamble,
               history := s.history ++ [.out (.packet (s.pkt.setIfInBounds 9 s.acc)), .trace .packetDelivered] } := by
  rcases s.closeByte_cases with ⟨_, hclose⟩ | ⟨hne, _⟩
  · rw [hclose, hfill]
    simp [State.deliver, State.emit, State.trace, State.record]
  · exact absurd (by rw [hfill]) hne

theorem State.fsmStep_dataHalf (hfsm : s.fsmState = .receiving) (hparity : s.parity = false) :
    s.fsmStep b = (s.dataHalf b).flipParity.setPrevBit b := by
  rw [State.fsmStep_of_receiving b s hfsm, State.receivingStep, hparity]; rfl

theorem State.fsmStep_checkHalf (hfsm : s.fsmState = .receiving) (hparity : s.parity = true) :
    s.fsmStep b = (s.checkHalf b).flipParity.setPrevBit b := by
  rw [State.fsmStep_of_receiving b s hfsm, State.receivingStep, hparity]; rfl

theorem State.dataHalf_acc (s : State) : (s.dataHalf b).acc = s.acc.extractLsb' 0 7 ++ BitVec.ofBool b := by
  rw [← shiftLeft_or_eq_append]
  rcases s.dataHalf_cases b with ⟨_, _, hdata⟩ | ⟨_, hdata⟩ <;> rw [hdata]
  · rw [State.closeByte_acc]; rfl
  · rfl

end half

/-- Settles O46: a data half is the shift, and without `LAST_HALF_CHECK` the eighth closes its byte. -/
theorem dataHalvesFillTheAccumulator : Obligations.DataHalvesFillTheAccumulator := by
  intro s b hfsm hparity
  rw [State.fsmStep_dataHalf b hfsm hparity]
  refine ⟨s.dataHalf_acc b, fun hopen => ?_, fun hlhc hseven hfill => ?_⟩
  · rcases s.dataHalf_cases b with ⟨hlhc, hseven, _⟩ | ⟨_, hdata⟩
    · rcases hopen with hlhc' | hne
      · rw [hlhc] at hlhc'; cases hlhc'
      · exact absurd hseven hne
    · rw [hdata, State.shiftIn, State.flipParity, State.setPrevBit, hparity]; rfl
  · rcases s.dataHalf_cases b with ⟨_, _, hdata⟩ | ⟨hnot, _⟩
    · rw [hdata, State.closeByte_of_open (s := s.shiftIn b) hfill, State.shiftIn, State.flipParity, State.setPrevBit, hparity]; rfl
    · exact absurd ⟨hlhc, hseven⟩ hnot

/-- Settles O47: by the cases of a check half. -/
theorem checkHalvesMustBeTheComplement : Obligations.CheckHalvesMustBeTheComplement := by
  intro s b hfsm hparity
  rw [State.fsmStep_checkHalf b hfsm hparity]
  rcases s.checkHalf_cases b with ⟨heq, hcheck⟩ | ⟨hne, hlhc, height, hcheck⟩ | ⟨hne, hopen, hcheck⟩ <;> rw [hcheck]
  · refine ⟨fun _ => ⟨?_, State.trace_events _ _⟩, fun hne => absurd heq hne, fun hne => absurd heq hne⟩
    simp [State.flipParity, State.setPrevBit, State.trace, State.record, hparity]
  · refine ⟨fun heq => absurd heq hne, fun _ hnot => absurd ⟨hlhc, height⟩ hnot, fun _ _ _ hfill => ?_⟩
    rw [State.closeByte_of_open hfill, State.flipParity, State.setPrevBit, hparity]; rfl
  · refine ⟨fun heq => absurd heq hne, fun _ _ => ?_, fun _ hlhc height => absurd ⟨hlhc, height⟩ hopen⟩
    rw [State.flipParity, State.setPrevBit, hparity]; rfl

/-- Settles O48: either closing half stores the accumulator in the last slot and delivers. -/
theorem tenthByteDeliversThePacket : Obligations.TenthByteDeliversThePacket := by
  intro s b hfsm hfill hclosing
  have hkept : ∀ x : Byte, ∀ k, k < 9 → (s.pkt.setIfInBounds 9 x)[k]? = s.pkt[k]? := fun x k hk =>
    Vector.getElem?_setIfInBounds_ne (by omega)
  have hstored : ∀ x : Byte, (s.pkt.setIfInBounds 9 x)[9]? = some x := fun x => by simp
  rcases hclosing with ⟨hlhc, hparity, hseven⟩ | ⟨hlhc, hparity, height, hne⟩
  · have hstep : s.fsmStep b = (s.shiftIn b).closeByte.flipParity.setPrevBit b := by
      rw [State.fsmStep_dataHalf b hfsm hparity]
      rcases s.dataHalf_cases b with ⟨_, _, hdata⟩ | ⟨hnot, _⟩
      · rw [hdata]
      · exact absurd ⟨hlhc, hseven⟩ hnot
    rw [hstep, State.closeByte_of_tenth (s := s.shiftIn b) hfill, hlhc]
    exact ⟨rfl, hkept _, hstored _, shiftLeft_or_eq_append s.acc b, rfl⟩
  · have hstep : s.fsmStep b = s.closeByte.flipParity.setPrevBit b := by
      rw [State.fsmStep_checkHalf b hfsm hparity]
      rcases s.checkHalf_cases b with ⟨heq, _⟩ | ⟨_, _, _, hcheck⟩ | ⟨_, hopen, _⟩
      · exact absurd heq hne
      · rw [hcheck]
      · exact absurd ⟨hlhc, height⟩ hopen
    rw [hstep, State.closeByte_of_tenth hfill, hlhc]
    exact ⟨rfl, hkept _, hstored _, rfl, rfl⟩

/-! ## Pairs of a frame (R265) -/

@[simp] theorem State.fsmRun_nil (s : State) : s.fsmRun [] = s := rfl

@[simp] theorem State.fsmRun_cons (b : Bool) (bits : List Bool) (s : State) :
    s.fsmRun (b :: bits) = (s.fsmStep b).fsmRun bits := rfl

theorem State.fsmRun_append (l l' : List Bool) (s : State) : s.fsmRun (l ++ l') = (s.fsmRun l).fsmRun l' :=
  List.foldl_append

/-- The byte `x` holds the eight bits of `data` from the `m`-th on, most significant first (R262, R264). -/
def HoldsBits (data : Nat → Bool) (m : Nat) (x : Byte) : Prop := ∀ i, i < 8 → x.getLsbD (7 - i) = data (m + i)

/-- The frame that entered `Receiving` in `s`, after `j` valid pairs with the data halves `data` (R256 to R262). -/
structure State.MidFrame (s : State) (data : Nat → Bool) (j : Nat) (u : State) : Prop where
  cfg : u.cfg = s.cfg
  fsm : u.fsmState = .receiving
  parity : u.parity = false
  bitCnt : u.bitCnt = j % 8
  fill : u.fill = j / 8
  history : u.history = s.history
  acc : ∀ i, i < 8 → i < j → u.acc.getLsbD i = data (j - 1 - i)
  pkt : ∀ k, k < j / 8 → ∃ x, u.pkt[k]? = some x ∧ HoldsBits data (8 * k) x

/-- What a data half leaves while its check half is awaited: `closed` says whether it has closed the byte (R256). -/
structure State.MidPair (s : State) (data : Nat → Bool) (j : Nat) (u : State) : Prop where
  cfg : u.cfg = s.cfg
  fsm : u.fsmState = .receiving
  parity : u.parity = true
  prevBit : u.prevBit = data j
  history : u.history = s.history
  acc : ∀ i, i < 8 → i < j + 1 → u.acc.getLsbD i = data (j - i)
  bytes : (u.bitCnt = j % 8 + 1 ∧ u.fill = j / 8 ∧ (s.cfg.lastHalfCheck = true ∨ j % 8 ≠ 7) ∨
    u.bitCnt = 0 ∧ u.fill = j / 8 + 1 ∧ s.cfg.lastHalfCheck = false ∧ j % 8 = 7)
  pkt : ∀ k, k < u.fill → ∃ x, u.pkt[k]? = some x ∧ HoldsBits data (8 * k) x

section frame
variable {s u : State} {data : Nat → Bool} {j : Nat}

theorem State.MidFrame.start (hfsm : s.fsmState = .receiving) (hparity : s.parity = false) (hbit : s.bitCnt = 0)
    (hfill : s.fill = 0) : s.MidFrame data 0 s :=
  ⟨rfl, hfsm, hparity, hbit, hfill, rfl, by simp, by simp⟩

theorem getLsbD_shifted (x : Byte) (b : Bool) {i : Nat} (hi : i < 8) :
    (x.extractLsb' 0 7 ++ BitVec.ofBool b).getLsbD i = if i = 0 then b else x.getLsbD (i - 1) := by
  rw [show BitVec.getLsbD (x.extractLsb' 0 7 ++ BitVec.ofBool b) i = _ from BitVec.getLsbD_append ..]
  rcases i with _ | i
  · simp
  · simp [show i < 7 by omega]

/-- A data half of the frame puts its bit at the low end of the accumulator (R256). -/
theorem State.MidFrame.acc_shifted (h : s.MidFrame data j u) :
    ∀ i, i < 8 → i < j + 1 → (u.acc.extractLsb' 0 7 ++ BitVec.ofBool (data j)).getLsbD i = data (j - i) := by
  intro i hi hij
  rw [getLsbD_shifted _ _ hi]
  split
  next hzero => rw [hzero, Nat.sub_zero]
  next hpos => rw [h.acc (i - 1) (by omega) (by omega), show j - 1 - (i - 1) = j - i by omega]

/-- The accumulator after the eighth data half of byte `j / 8` is that byte (R262). -/
theorem holdsBits_of_acc {x : Byte} (hacc : ∀ i, i < 8 → i < j + 1 → x.getLsbD i = data (j - i)) (hj : j % 8 = 7) :
    HoldsBits data (8 * (j / 8)) x := by
  intro i hi
  rw [hacc (7 - i) (by omega) (by omega)]
  congr 1; omega

/-- A byte stored in the next free slot (R262). -/
theorem pkt_stored {pkt : Vector Byte pktCap} {n : Nat} {x : Byte} (hn : n < 10) (hx : HoldsBits data (8 * n) x)
    (hpkt : ∀ k, k < n → ∃ y, pkt[k]? = some y ∧ HoldsBits data (8 * k) y) :
    ∀ k, k < n + 1 → ∃ y, (pkt.setIfInBounds n x)[k]? = some y ∧ HoldsBits data (8 * k) y := by
  intro k hk
  by_cases hkn : k = n
  · subst hkn
    exact ⟨x, by simp [hn], hx⟩
  · rw [Vector.getElem?_setIfInBounds_ne (Ne.symm hkn)]
    exact hpkt k (by omega)

/-- The data half of a pair, where it does not deliver (R256). -/
theorem State.MidFrame.dataHalf (h : s.MidFrame data j u) (hopen : s.cfg.lastHalfCheck = true ∨ j + 1 < 80) :
    s.MidPair data j (u.fsmStep (data j)) := by
  obtain ⟨hacc, hshift, hclose⟩ := dataHalvesFillTheAccumulator u (data j) h.fsm h.parity
  have hbits := h.acc_shifted
  rw [← hacc] at hbits
  by_cases hshut : s.cfg.lastHalfCheck = false ∧ j % 8 = 7
  · obtain ⟨hlhc, hseven⟩ := hshut
    have hj : j + 1 < 80 := hopen.resolve_left (by simp [hlhc])
    have hstep := hclose (by rw [h.cfg, hlhc]) (by rw [h.bitCnt, hseven]) (by rw [h.fill]; omega)
    generalize (u.fsmStep (data j)).acc = acc at hbits hstep
    rw [hstep, h.fill]
    exact ⟨h.cfg, h.fsm, rfl, rfl, h.history, hbits, .inr ⟨rfl, rfl, hlhc, hseven⟩,
      pkt_stored (by omega) (holdsBits_of_acc hbits hseven) h.pkt⟩
  · have hwait : s.cfg.lastHalfCheck = true ∨ j % 8 ≠ 7 := by
      rwa [not_and_or, Bool.not_eq_false] at hshut
    have hstep := hshift (by rwa [h.cfg, h.bitCnt])
    generalize (u.fsmStep (data j)).acc = acc at hbits hstep
    rw [hstep, h.bitCnt]
    exact ⟨h.cfg, h.fsm, rfl, rfl, h.history, hbits, .inl ⟨rfl, h.fill, hwait⟩, fun k hk => h.pkt k (h.fill ▸ hk)⟩

/-- The check half of a valid pair, where it does not deliver (R257, R259). -/
theorem State.MidPair.checkHalf {b : Bool} (h : s.MidPair data j u) (hb : b ≠ data j) (hj : j + 1 < 80) :
    s.MidFrame data (j + 1) (u.fsmStep b) := by
  obtain ⟨_, hkeep, hclose⟩ := checkHalvesMustBeTheComplement u b h.fsm h.parity
  rw [h.prevBit, show u.cfg.lastHalfCheck = s.cfg.lastHalfCheck by rw [h.cfg]] at hkeep hclose
  rcases h.bytes with ⟨hbit, hfill, hwait⟩ | ⟨hbit, hfill, hlhc, hseven⟩
  · by_cases hseven : j % 8 = 7
    · have hlhc := hwait.resolve_right (not_not.2 hseven)
      rw [hclose hb hlhc (by omega) (by omega)]
      refine ⟨h.cfg, h.fsm, rfl, ?_, ?_, h.history, h.acc, ?_⟩
      · show 0 = (j + 1) % 8
        omega
      · show u.fill + 1 = (j + 1) / 8
        omega
      · have hstored := pkt_stored (by omega) (hfill ▸ holdsBits_of_acc h.acc hseven) h.pkt
        exact fun k hk => hstored k (by omega)
    · rw [hkeep hb (by omega)]
      refine ⟨h.cfg, h.fsm, rfl, ?_, ?_, h.history, h.acc, fun k hk => h.pkt k (by omega)⟩
      · show u.bitCnt = (j + 1) % 8
        omega
      · show u.fill = (j + 1) / 8
        omega
  · rw [hkeep hb (by omega)]
    refine ⟨h.cfg, h.fsm, rfl, ?_, ?_, h.history, h.acc, fun k hk => h.pkt k (by omega)⟩
    · show u.bitCnt = (j + 1) % 8
      omega
    · show u.fill = (j + 1) / 8
      omega

end frame

/-! ## A whole frame (R265) -/

theorem State.fsmRun_take_succ (s : State) {bits : List Bool} {i : Nat} (hi : i < bits.length) :
    s.fsmRun (bits.take (i + 1)) = (s.fsmRun (bits.take i)).fsmStep (bits.getD i false) := by
  rw [List.take_succ_eq_append_getElem hi, State.fsmRun_append, State.fsmRun_cons, State.fsmRun_nil,
    List.getD_eq_getElem _ _ hi]

/-- The data half of pair `j` of a frame. -/
def dataOf (h : List Bool) (j : Nat) : Bool := h.getD (2 * j) false

section whole
variable {s : State} {h : List Bool} (hfsm : s.fsmState = .receiving) (hparity : s.parity = false)
  (hbit : s.bitCnt = 0) (hfill : s.fill = 0)
include hfsm hparity hbit hfill

/-- After `j` valid pairs the frame is under way, up to the pair that could deliver. -/
theorem State.fsmRun_midFrame (j : Nat) (hj : j < 80) (hlen : 2 * j ≤ h.length)
    (hvalid : ∀ i, i < j → h.getD (2 * i + 1) false ≠ h.getD (2 * i) false) :
    s.MidFrame (dataOf h) j (s.fsmRun (h.take (2 * j))) := by
  induction j with
  | zero => exact State.MidFrame.start hfsm hparity hbit hfill
  | succ j ih =>
    have hmid := ih (by omega) (by omega) fun i hi => hvalid i (by omega)
    have hpair := (hmid.dataHalf (.inr hj)).checkHalf (hvalid j (by omega)) hj
    rw [Nat.mul_succ, s.fsmRun_take_succ (show 2 * j + 1 < h.length by omega),
      s.fsmRun_take_succ (show 2 * j < h.length by omega)]
    exact hpair

/-- Up to the data half of pair `j`, the check half of which is awaited. -/
theorem State.fsmRun_midPair (j : Nat) (hj : j + 1 ≤ 80) (hopen : s.cfg.lastHalfCheck = true ∨ j + 1 < 80)
    (hlen : 2 * j < h.length) (hvalid : ∀ i, i < j → h.getD (2 * i + 1) false ≠ h.getD (2 * i) false) :
    s.MidPair (dataOf h) j (s.fsmRun (h.take (2 * j + 1))) := by
  rw [s.fsmRun_take_succ hlen]
  exact (State.fsmRun_midFrame hfsm hparity hbit hfill j hj hlen.le hvalid).dataHalf hopen

end whole

/-- The tenth byte, stored last, completes the buffer (R262, R263). -/
theorem pkt_delivered {data : Nat → Bool} {u t : State} {x : Byte} (hkept : ∀ k, k < 9 → t.pkt[k]? = u.pkt[k]?)
    (hstored : t.pkt[9]? = some x) (hx : HoldsBits data 72 x)
    (hpkt : ∀ k, k < 9 → ∃ y, u.pkt[k]? = some y ∧ HoldsBits data (8 * k) y) :
    ∀ k, k < 10 → ∃ y, t.pkt[k]? = some y ∧ HoldsBits data (8 * k) y := by
  intro k hk
  by_cases hnine : k < 9
  · rw [hkept k hnine]
    exact hpkt k hnine
  · obtain rfl : k = 9 := by omega
    exact ⟨x, hstored, hx⟩

/-- The data half that closes the tenth byte without `LAST_HALF_CHECK` (R256, R263). -/
theorem State.MidFrame.deliver {s u : State} {data : Nat → Bool} (h : s.MidFrame data 79 u)
    (hlhc : s.cfg.lastHalfCheck = false) :
    let t := u.fsmStep (data 79)
    t.fsmState = .seekPreamble ∧ t.history = s.history ++ [.out (.packet t.pkt), .trace .packetDelivered] ∧
      ∀ k, k < 10 → ∃ x, t.pkt[k]? = some x ∧ HoldsBits data (8 * k) x := by
  obtain ⟨hhist, hkept, hstored, hacc, hframe⟩ := tenthByteDeliversThePacket u (data 79) h.fsm h.fill
    (.inl ⟨by rw [h.cfg, hlhc], h.parity, h.bitCnt⟩)
  rw [show u.cfg.lastHalfCheck = false by rw [h.cfg, hlhc], if_neg Bool.false_ne_true] at hacc
  have hbyte := holdsBits_of_acc h.acc_shifted rfl
  rw [← hacc] at hbyte
  refine ⟨by rw [hframe], by rw [hhist, h.history], ?_⟩
  exact pkt_delivered hkept hstored hbyte h.pkt

/-- The check half that closes the tenth byte under `LAST_HALF_CHECK` (R259, R263). -/
theorem State.MidPair.deliver {s u : State} {data : Nat → Bool} {b : Bool} (h : s.MidPair data 79 u)
    (hlhc : s.cfg.lastHalfCheck = true) (hb : b ≠ data 79) :
    let t := u.fsmStep b
    t.fsmState = .seekPreamble ∧ t.history = s.history ++ [.out (.packet t.pkt), .trace .packetDelivered] ∧
      ∀ k, k < 10 → ∃ x, t.pkt[k]? = some x ∧ HoldsBits data (8 * k) x := by
  rcases h.bytes with ⟨hbit, hfill, _⟩ | ⟨_, _, hlhc', _⟩
  · have hcfg : u.cfg.lastHalfCheck = true := by rw [h.cfg, hlhc]
    obtain ⟨hhist, hkept, hstored, hacc, hframe⟩ := tenthByteDeliversThePacket u b h.fsm hfill
      (.inr ⟨hcfg, h.parity, hbit, by rwa [h.prevBit]⟩)
    rw [if_pos hcfg] at hacc
    have hbyte := holdsBits_of_acc h.acc rfl
    rw [← hacc] at hbyte
    refine ⟨by rw [hframe], by rw [hhist, h.history], ?_⟩
    exact pkt_delivered hkept hstored hbyte fun k hk => h.pkt k (by omega)
  · rw [hlhc] at hlhc'; cases hlhc'

/-- Settles O50: 79 pairs are under way, and the last examined half delivers. -/
theorem validFrameDeliversItsPacket : Obligations.ValidFrameDeliversItsPacket := by
  intro s h hfsm hparity hbit hfill hlen hvalid
  have hbytes : ∀ {t : State}, (∀ k, k < 10 → ∃ x, t.pkt[k]? = some x ∧ HoldsBits (dataOf h) (8 * k) x) →
      ∀ k, k < 10 → ∃ x : Byte, t.pkt[k]? = some x ∧
        ∀ i, i < 8 → x.getLsbD (7 - i) = h.getD (16 * k + 2 * i) false := by
    intro t hpkt k hk
    obtain ⟨x, hx, hholds⟩ := hpkt k hk
    exact ⟨x, hx, fun i hi => by rw [hholds i hi, dataOf, show 2 * (8 * k + i) = 16 * k + 2 * i by omega]⟩
  cases hlhc : s.cfg.lastHalfCheck
  · replace hlen : h.length = 159 := by simpa [hlhc] using hlen
    have hmid := State.fsmRun_midFrame (h := h) hfsm hparity hbit hfill 79 (by omega) (by omega)
      fun i hi => hvalid i (by omega)
    have hrun := s.fsmRun_take_succ (show 2 * 79 < h.length by omega)
    rw [List.take_of_length_le (by omega)] at hrun
    obtain ⟨hend, hhist, hpkt⟩ := hmid.deliver hlhc
    rw [hrun]
    exact ⟨hend, hhist, hbytes hpkt⟩
  · replace hlen : h.length = 160 := by simpa [hlhc] using hlen
    have hmid := State.fsmRun_midPair (h := h) hfsm hparity hbit hfill 79 (by omega) (.inl hlhc) (by omega)
      fun i hi => hvalid i (by omega)
    have hrun := s.fsmRun_take_succ (show 2 * 79 + 1 < h.length by omega)
    rw [List.take_of_length_le (by omega)] at hrun
    obtain ⟨hend, hhist, hpkt⟩ := hmid.deliver hlhc (hvalid 79 (by omega))
    rw [hrun]
    exact ⟨hend, hhist, hbytes hpkt⟩

/-- Settles O51: the pairs before are under way, the data half delivers nothing, and the check half fails. -/
theorem violatedFrameDeliversNothing : Obligations.ViolatedFrameDeliversNothing := by
  intro s h j hfsm hparity hbit hfill hlen hj hvalid hfails
  have hopen : s.cfg.lastHalfCheck = true ∨ j + 1 < 80 := by
    cases hlhc : s.cfg.lastHalfCheck <;> rw [hlhc] at hj <;> simp at hj ⊢
    omega
  have hmid := State.fsmRun_midPair (h := h) hfsm hparity hbit hfill j (by split at hj <;> omega) hopen (by omega) hvalid
  obtain ⟨hviolated, _⟩ := checkHalvesMustBeTheComplement _ (h.getD (2 * j + 1) false) hmid.fsm hmid.parity
  obtain ⟨hstep, _⟩ := hviolated (by rw [hfails, hmid.prevBit]; rfl)
  have hrun := s.fsmRun_take_succ (show 2 * j + 1 < h.length by omega)
  rw [List.take_of_length_le (by omega), hstep] at hrun
  have hhist : (s.fsmRun h).history = s.history ++ [.trace .manchesterViolation] := by
    rw [hrun, ← hmid.history]
  refine ⟨by rw [hrun], hhist, ?_⟩
  rw [State.events, hhist, List.filterMap_append]
  exact List.append_nil _

end Sys2Proof.Machine

/-!
# From the preamble to the packet

A run of alternating bits is counted up to `MIN_TRANS`, four zeros end it (44_framing.md R266), and an encoded packet
after them is a frame of valid pairs (R264). From any good state in `Receiving` each half moves one position on among the
160 of a frame (R267).
-/

namespace Sys2Proof.Machine

/-! ## The preamble (R266) -/

/-- Too few bits to reach `MIN_TRANS` stay in `SeekPreamble`. -/
theorem State.fsmRun_stays_in_seekPreamble (bits : List Bool) : ∀ s : State, s.fsmState = .seekPreamble →
    s.transCnt + bits.length < s.cfg.minTrans → (s.fsmRun bits).fsmState = .seekPreamble := by
  induction bits with
  | nil => exact fun s hfsm _ => hfsm
  | cons b bits ih =>
    intro s hfsm hfew
    rw [List.length_cons] at hfew
    obtain ⟨hsame, hcount, _⟩ := preambleTransitionsAreCounted s b hfsm (by omega)
    rw [State.fsmRun_cons]
    by_cases hb : b = s.prevBit
    · rw [hsame hb]
      exact ih _ hfsm (by simp only; omega)
    · rw [hcount hb (by omega)]
      exact ih _ hfsm (by simp only; omega)

/-- Bit `k` of a preamble that starts unlike the previous bit `p`. -/
def preambleBit (p : Bool) (k : Nat) : Bool := if k % 2 = 0 then !p else p

/-- Each bit of a preamble is unlike the one before it. -/
theorem preambleBit_succ_ne (p : Bool) (k : Nat) : preambleBit p (k + 1) ≠ preambleBit p k := by
  unfold preambleBit
  by_cases hk : k % 2 = 0
  · rw [if_pos hk, if_neg (by omega)]; cases p <;> decide
  · rw [if_neg hk, if_pos (by omega)]; cases p <;> decide

/-- The preamble is one transition a bit; `k` of them are counted, the previous bit being bit `k - 1`. -/
theorem State.fsmRun_preamble {s : State} (hfsm : s.fsmState = .seekPreamble) (hzero : s.transCnt = 0) (k : Nat)
    (hk : k < s.cfg.minTrans) :
    s.fsmRun ((List.range k).map (preambleBit s.prevBit)) =
      { s with transCnt := k, prevBit := preambleBit s.prevBit (k + 1) } := by
  induction k with
  | zero =>
    have hself : s = { s with transCnt := 0, prevBit := s.prevBit } := by rw [← hzero]
    exact hself
  | succ k ih =>
    rw [List.range_succ, List.map_append, State.fsmRun_append, ih (by omega), List.map_singleton, State.fsmRun_cons,
      State.fsmRun_nil]
    obtain ⟨_, hcount, _⟩ := preambleTransitionsAreCounted
      { s with transCnt := k, prevBit := preambleBit s.prevBit (k + 1) } (preambleBit s.prevBit k) hfsm (Nat.one_le_of_lt hk)
    rw [hcount (preambleBit_succ_ne s.prevBit k).symm (Nat.ne_of_lt hk)]
    simp [preambleBit, show (k + 1 + 1) % 2 = k % 2 by omega]

/-- The whole preamble enters `SeekPreambleEnd`. -/
theorem State.fsmRun_whole_preamble {s : State} (hfsm : s.fsmState = .seekPreamble) (hzero : s.transCnt = 0)
    (hmin : 1 ≤ s.cfg.minTrans) :
    ∃ p, s.fsmRun ((List.range s.cfg.minTrans).map (preambleBit s.prevBit)) =
      { s with zeroCnt := 0, fsmState := .seekPreambleEnd, prevBit := p,
               history := s.history ++ [.trace .preambleSeen] } := by
  obtain ⟨k, hk⟩ : ∃ k, s.cfg.minTrans = k + 1 := ⟨s.cfg.minTrans - 1, by omega⟩
  refine ⟨preambleBit s.prevBit k, ?_⟩
  rw [hk, List.range_succ, List.map_append, State.fsmRun_append, State.fsmRun_preamble hfsm hzero k (by omega),
    List.map_singleton, State.fsmRun_cons, State.fsmRun_nil]
  obtain ⟨_, _, hreached⟩ := preambleTransitionsAreCounted
    { s with transCnt := k, prevBit := preambleBit s.prevBit (k + 1) } (preambleBit s.prevBit k) hfsm hmin
  rw [hreached (preambleBit_succ_ne s.prevBit k).symm hk.symm, hzero]

/-- Four zeros in `SeekPreambleEnd` start a frame. -/
theorem State.fsmRun_terminator {s : State} (hfsm : s.fsmState = .seekPreambleEnd) (hzero : s.zeroCnt = 0) :
    s.fsmRun [false, false, false, false] =
      { s with fsmState := .receiving, zeroCnt := 0, acc := 0x00#8, bitCnt := 0, fill := 0, parity := false,
               prevBit := false, history := s.history ++ [.trace .frameStart] } := by
  have hcount : ∀ n, n ≠ 3 → ∀ p, State.fsmStep false { s with zeroCnt := n, prevBit := p } =
      { s with zeroCnt := n + 1, prevBit := false } := fun n hn p =>
    (terminatorZerosAreCounted { s with zeroCnt := n, prevBit := p } false hfsm).2.2 rfl hn
  have hlast := (terminatorZerosAreCounted { s with zeroCnt := 3, prevBit := false } false hfsm).2.1 rfl rfl
  have hfirst : s = { s with zeroCnt := 0, prevBit := s.prevBit } := by rw [← hzero]
  conv_lhs => rw [hfirst]
  simp only [State.fsmRun_cons, State.fsmRun_nil]
  rw [hcount 0 (by decide), hcount 1 (by decide), hcount 2 (by decide), hlast]

/-- Settles O52: the preamble, then the terminator. -/
theorem preambleThenTerminatorStartsAFrame : Obligations.PreambleThenTerminatorStartsAFrame := by
  intro s hfsm hzero hmin
  refine ⟨fun bits hfew => s.fsmRun_stays_in_seekPreamble bits hfsm (by omega), ?_⟩
  obtain ⟨p, hpreamble⟩ := State.fsmRun_whole_preamble hfsm hzero hmin
  show s.fsmRun ((List.range s.cfg.minTrans).map (preambleBit s.prevBit) ++ [false, false, false, false]) = _
  rw [State.fsmRun_append, hpreamble, State.fsmRun_terminator rfl rfl]
  simp

/-! ## An encoded packet (R264) -/

/-- Half `m` of an encoded byte: data bit `m / 2`, most significant first, or its complement. -/
def manchesterHalf (x : Byte) (m : Nat) : Bool := if m % 2 = 0 then x.getLsbD (7 - m / 2) else !x.getLsbD (7 - m / 2)

theorem manchester_cons (x : Byte) (bytes : List Byte) :
    manchester (x :: bytes) = (List.range 16).map (manchesterHalf x) ++ manchester bytes := rfl

theorem manchester_length (bytes : List Byte) : (manchester bytes).length = 16 * bytes.length := by
  induction bytes with
  | nil => rfl
  | cons x bytes ih => rw [manchester_cons, List.length_append, ih, List.length_cons]; simp; omega

theorem manchester_getD (bytes : List Byte) {k m : Nat} (hk : k < bytes.length) (hm : m < 16) :
    (manchester bytes).getD (16 * k + m) false = manchesterHalf bytes[k] m := by
  induction bytes generalizing k with
  | nil => exact absurd hk (Nat.not_lt_zero k)
  | cons x bytes ih =>
    rw [manchester_cons]
    cases k with
    | zero => rw [List.getD_append _ _ _ _ (by simp; omega)]; simp [hm]
    | succ k =>
      rw [List.getD_append_right _ _ _ _ (by simp; omega), List.length_map, List.length_range,
        show 16 * (k + 1) + m - 16 = 16 * k + m by omega, ih (by simpa using hk)]
      rfl

/-- Every pair of an encoded packet is a valid one. -/
theorem manchester_valid (bytes : List Byte) {j : Nat} (hj : 2 * j + 1 < (manchester bytes).length) :
    (manchester bytes).getD (2 * j + 1) false ≠ (manchester bytes).getD (2 * j) false := by
  rw [manchester_length] at hj
  rw [show 2 * j + 1 = 16 * (j / 8) + (2 * (j % 8) + 1) by omega, manchester_getD bytes (by omega) (by omega),
    show 2 * j = 16 * (j / 8) + 2 * (j % 8) by omega, manchester_getD bytes (by omega) (by omega)]
  simp [manchesterHalf, show (2 * (j % 8) + 1) / 2 = j % 8 by omega, show (2 * (j % 8) + 1) % 2 = 1 by omega]

/-- A half in `SeekPreamble` emits nothing (R251, R252). -/
theorem State.fsmStep_events_of_seekPreamble (b : Bool) {s : State} (hfsm : s.fsmState = .seekPreamble) :
    (s.fsmStep b).events = s.events := by
  rw [State.fsmStep_of_seekPreamble b s hfsm]
  rcases s.seekPreambleStep_cases b with ⟨_, hstep⟩ | ⟨_, hstep⟩ <;> rw [hstep]
  · exact State.trace_events { s with transCnt := 0, zeroCnt := 0, fsmState := .seekPreambleEnd } .preambleSeen
  · rfl

/-- The buffer that a valid frame fills is the encoded bytes (R264, R265). -/
theorem pkt_eq_of_manchester {pkt bytes : Vector Byte 10} {h : List Bool}
    (hh : ∀ m, m < 159 → h.getD m false = (manchester bytes.toList).getD m false)
    (hpkt : ∀ k, k < 10 → ∃ x : Byte, pkt[k]? = some x ∧
      ∀ i, i < 8 → x.getLsbD (7 - i) = h.getD (16 * k + 2 * i) false) : pkt = bytes := by
  apply Vector.ext
  intro k hk
  obtain ⟨x, hx, hbits⟩ := hpkt k hk
  rw [Vector.getElem?_eq_getElem hk, Option.some_inj] at hx
  rw [hx]
  apply BitVec.eq_of_getLsbD_eq
  intro i hi
  have hbit := hbits (7 - i) (by omega)
  rw [hh _ (by omega), manchester_getD bytes.toList (by simpa using hk) (by omega)] at hbit
  simpa [manchesterHalf, show 7 - (7 - i) = i by omega] using hbit

/-- An encoded packet from the start of a frame is delivered, and nothing else comes out (R264, R265). -/
theorem State.fsmRun_manchester {s : State} (bytes : Vector Byte 10) (hfsm : s.fsmState = .receiving)
    (hparity : s.parity = false) (hbit : s.bitCnt = 0) (hfill : s.fill = 0) :
    (s.fsmRun (manchester bytes.toList)).events = s.events ++ [.packet bytes] := by
  have hlen : (manchester bytes.toList).length = 160 := by rw [manchester_length]; simp
  have hpacket : ∀ t : State, t.history = s.history ++ [.out (.packet t.pkt), .trace .packetDelivered] →
      t.pkt = bytes → t.events = s.events ++ [.packet bytes] := by
    intro t hhist hpkt
    rw [State.events, hhist, List.filterMap_append, hpkt]; rfl
  cases hlhc : s.cfg.lastHalfCheck
  · have htake : ∀ m, m < 159 →
        ((manchester bytes.toList).take 159).getD m false = (manchester bytes.toList).getD m false := by
      intro m hm
      rw [List.getD_eq_getElem?_getD, List.getElem?_take_of_lt hm, ← List.getD_eq_getElem?_getD]
    obtain ⟨hend, hhist, hpkt⟩ := validFrameDeliversItsPacket s ((manchester bytes.toList).take 159) hfsm hparity hbit
      hfill (by simp [hlhc, hlen]) fun j hj => by
        rw [List.length_take, hlen] at hj
        rw [htake _ (by omega), htake _ (by omega)]
        exact manchester_valid bytes.toList (by omega)
    have hlast := s.fsmRun_take_succ (bits := manchester bytes.toList) (i := 159) (by omega)
    rw [List.take_of_length_le (by omega)] at hlast
    rw [hlast, State.fsmStep_events_of_seekPreamble _ hend]
    exact hpacket _ hhist (pkt_eq_of_manchester htake hpkt)
  · obtain ⟨_, hhist, hpkt⟩ := validFrameDeliversItsPacket s (manchester bytes.toList) hfsm hparity hbit hfill
      (by simp [hlhc, hlen]) fun j hj => manchester_valid bytes.toList hj
    exact hpacket _ hhist (pkt_eq_of_manchester (fun _ _ => rfl) hpkt)

/-- Settles O53: the preamble and the terminator start the frame that the encoded packet fills. -/
theorem encodedPacketIsDeliveredOnce : Obligations.EncodedPacketIsDeliveredOnce := by
  intro s bytes hfsm hzero hmin preamble
  rw [State.fsmRun_append, (preambleThenTerminatorStartsAFrame s hfsm hzero hmin).2,
    State.fsmRun_manchester bytes rfl rfl rfl rfl]
  simp [State.events, Event.output?]

/-! ## Leaving `Receiving` (R267) -/

/-- The halves of the frame consumed so far: two for each data bit, but for a check half still awaited. -/
def State.framePosition (s : State) : Nat := 2 * (8 * s.fill + s.bitCnt) - if s.parity then 1 else 0

section leaving
variable {s : State}

theorem State.FramingInv.framePosition_lt (h : s.FramingInv) (hfsm : s.fsmState = .receiving) :
    s.framePosition < 160 := by
  have hfill := h.fill_receiving hfsm
  have hbit := h.bit_le
  have hdata := h.bit_data hfsm
  unfold State.framePosition
  cases hparity : s.parity
  · have := hdata hparity
    simp only [Bool.false_eq_true, if_false]; omega
  · simp only [if_true]; omega

/-- A closed byte that does not deliver stands for its eight data bits (R262, R263). -/
theorem State.closeByte_leaves_or_fills (hfsm : s.fsmState = .receiving) (b : Bool) :
    (s.closeByte.flipParity.setPrevBit b).fsmState = .seekPreamble ∨
    (s.closeByte.flipParity.setPrevBit b).fsmState = .receiving ∧
      (s.closeByte.flipParity.setPrevBit b).framePosition = 2 * (8 * (s.fill + 1)) - if s.parity then 0 else 1 := by
  rcases s.closeByte_cases with ⟨_, hclose⟩ | ⟨_, hclose⟩ <;> rw [hclose]
  · exact .inl rfl
  · refine .inr ⟨hfsm, ?_⟩
    cases s.parity <;> simp [State.framePosition]

/-- A half in `Receiving` leaves it, or is one position of the frame (R256 to R260). -/
theorem State.FramingInv.leaves_or_advances (h : s.FramingInv) (hfsm : s.fsmState = .receiving) (b : Bool) :
    (s.fsmStep b).fsmState = .seekPreamble ∨
    (s.fsmStep b).fsmState = .receiving ∧ (s.fsmStep b).framePosition = s.framePosition + 1 := by
  cases hparity : s.parity
  · rw [State.fsmStep_dataHalf b hfsm hparity]
    rcases s.dataHalf_cases b with ⟨_, hseven, hdata⟩ | ⟨_, hdata⟩ <;> rw [hdata]
    · rcases State.closeByte_leaves_or_fills (s := s.shiftIn b) hfsm b with hleft | ⟨hstay, hpos⟩
      · exact .inl hleft
      · refine .inr ⟨hstay, ?_⟩
        rw [hpos]
        simp [State.framePosition, State.shiftIn, hparity, hseven]; omega
    · refine .inr ⟨hfsm, ?_⟩
      simp [State.framePosition, State.shiftIn, hparity]; omega
  · have hhalf := h.bit_half hfsm hparity
    rw [State.fsmStep_checkHalf b hfsm hparity]
    rcases s.checkHalf_cases b with ⟨_, hcheck⟩ | ⟨_, _, height, hcheck⟩ | ⟨_, _, hcheck⟩ <;> rw [hcheck]
    · exact .inl rfl
    · rcases State.closeByte_leaves_or_fills hfsm b with hleft | ⟨hstay, hpos⟩
      · exact .inl hleft
      · refine .inr ⟨hstay, ?_⟩
        rw [hpos]
        simp [State.framePosition, hparity, height]; omega
    · refine .inr ⟨hfsm, ?_⟩
      simp [State.framePosition, hparity]; omega

end leaving

/-- The bits that are left of the frame's 160 suffice to leave it. -/
theorem State.fsmRun_leaves_receiving (bits : List Bool) : ∀ s : State, s.FramingInv → s.fsmState = .receiving →
    160 ≤ s.framePosition + bits.length → ∃ k, k ≤ bits.length ∧ (s.fsmRun (bits.take k)).fsmState = .seekPreamble := by
  induction bits with
  | nil => exact fun s h hfsm hlen => absurd (h.framePosition_lt hfsm) (Nat.not_lt.2 hlen)
  | cons b bits ih =>
    intro s h hfsm hlen
    rcases h.leaves_or_advances hfsm b with hleft | ⟨hstay, hpos⟩
    · exact ⟨1, by simp, hleft⟩
    · obtain ⟨k, hk, hleft⟩ := ih (s.fsmStep b) (h.fsmStep b) hstay (by rw [List.length_cons] at hlen; omega)
      exact ⟨k + 1, Nat.succ_le_succ hk, hleft⟩

/-- Settles O54: by the position in the frame, which every half moves on. -/
theorem receivingEndsWithin160Bits : Obligations.ReceivingEndsWithin160Bits := by
  intro s bits h hfsm hlen
  rw [← hlen]
  exact State.fsmRun_leaves_receiving bits s h hfsm (by omega)

end Sys2Proof.Machine

/-!
# Averages and filters

One update of a running average (43_bit_slicer.md R210) keeps the exact sum the sum of its window, and a constant input fills the window
slot by slot (R211). One put on a filter (41_filter_pair.md R180) shifts both histories by one, so under exact arithmetic the histories
after `n` puts are the last inputs and outputs, and the output is the difference equation's (R172).
-/

namespace Sys2Proof

/-! ## The exact operators -/

@[simp] theorem NUM.toRat_add_exact (a b : NUM) : (NUM.add .exact a b).toRat = a.toRat + b.toRat := rfl
@[simp] theorem NUM.toRat_sub_exact (a b : NUM) : (NUM.sub .exact a b).toRat = a.toRat - b.toRat := rfl
@[simp] theorem NUM.toRat_mul_exact (a b : NUM) : (NUM.mul .exact a b).toRat = a.toRat * b.toRat := rfl
@[simp] theorem NUM.toRat_divNat_exact (a : NUM) (k : Nat) : (NUM.divNat .exact a k).toRat = a.toRat / k := rfl
@[simp] theorem NUM.toRat_lit_exact (a : NUM) : (NUM.lit .exact a).toRat = a.toRat := rfl
@[simp] theorem NUM.toRat_zero_exact : (NUM.zero .exact).toRat = 0 := rfl
@[simp] theorem NUM.toRat_exact (q : Rat) : (NUM.exact q).toRat = q := rfl

end Sys2Proof

namespace Sys2Proof.Machine

/-! ## Running averages (R210, R211) -/

theorem RunningAverage.update_sum {d : NumDomain} {m : RaMode} {w : Nat} {v : NUM} {r : RunningAverage} {old : NUM}
    (hold : r.buf[r.pos]? = some old) : (r.update d m w v).1.sum = NUM.sub d (NUM.add d r.sum v) old := by
  simp [RunningAverage.update, hold]

/-- The mean is the new sum over the divisor of `RA_MODE`. -/
theorem RunningAverage.update_mean (d : NumDomain) (m : RaMode) (w : Nat) (v : NUM) (r : RunningAverage) :
    (r.update d m w v).2 =
      NUM.divNat d (r.update d m w v).1.sum (if m = .zeroFilled then w else (r.update d m w v).1.count) := by
  cases m <;> rfl

theorem RunningAverage.update_count {d : NumDomain} {m : RaMode} {w : Nat} {v : NUM} {r : RunningAverage}
    (h : r.count ≤ w) : (r.update d m w v).1.count = min (r.count + 1) w := by
  show (if r.count < w then r.count + 1 else r.count) = _
  split <;> omega

theorem RunningAverage.Fits.getElem?_pos {d : NumDomain} {w : Nat} {r : RunningAverage} (h : r.Fits d w) :
    ∃ old, r.buf[r.pos]? = some old :=
  ⟨_, List.getElem?_eq_getElem (h.buf_length ▸ h.pos_lt)⟩

/-- Settles O38: each part of the update, with the slot in range. -/
theorem runningAverageUpdate : Obligations.RunningAverageUpdate := by
  intro d m w v r h
  have hpos := h.pos_lt
  obtain ⟨old, hold⟩ := h.getElem?_pos
  refine ⟨old, (r.update d m w v).1, hold, Prod.ext rfl (r.update_mean d m w v), RunningAverage.update_sum hold, ?_, ?_,
    ?_, ?_, RunningAverage.update_count h.count_le, ?_⟩
  · exact List.getElem?_set_self (h.buf_length ▸ hpos)
  · exact fun k hk => List.getElem?_set_ne (Ne.symm hk)
  · rw [RunningAverage.update_buf_length, h.buf_length]
  · show (r.pos + 1) % w = _
    split
    next hwrap => rw [hwrap, Nat.mod_self]
    next hno => exact Nat.mod_eq_of_lt (by omega)
  · rw [RunningAverage.update_count h.count_le]; omega

/-- Settles O39: the sum changes by the new value less the one that its slot held, and so does the window's. -/
theorem exactMeanIsTheMeanOfTheWindow : Obligations.ExactMeanIsTheMeanOfTheWindow := by
  intro w v r h hsum hv u
  have hlt : r.pos < r.buf.length := h.buf_length ▸ h.pos_lt
  have hbuf : u.1.buf = r.buf.set r.pos v := rfl
  have hwindow : u.1.sum.toRat = (u.1.buf.map NUM.toRat).sum := by
    rw [RunningAverage.update_sum (List.getElem?_eq_getElem hlt), hbuf, List.map_set, List.sum_set',
      dif_pos (by rwa [List.length_map]), ← hsum, List.getElem_map]
    simp only [NUM.toRat_sub_exact, NUM.toRat_add_exact]
    ring
  refine ⟨RunningAverage.update_fits hv h, hwindow, ?_⟩
  rw [← hwindow]; rfl

/-- An average that has taken the constant `c` for `k` times from reset, in a window of `w` (R211). -/
structure RunningAverage.Fed (c : Rat) (w k : Nat) (r : RunningAverage) : Prop where
  buf : ∀ i, i < w → r.buf[i]? = some (.exact (if i < k then c else 0))
  sum : r.sum = .exact ((min k w : Nat) * c)
  pos : r.pos = k % w
  count : r.count = min k w

section constant
variable {c : Rat} {w k : Nat} {r : RunningAverage}

theorem RunningAverage.initial_fed : (RunningAverage.initial .exact w).Fed c w 0 :=
  ⟨fun i hi => by simp [RunningAverage.initial, NUM.zero, hi], by simp [RunningAverage.initial, NUM.zero],
    (Nat.zero_mod w).symm, (Nat.zero_min w).symm⟩

/-- The slot of the next update holds zero until the window is full, and the constant from then on. -/
theorem RunningAverage.Fed.update (h : r.Fed c w k) (hw : 1 ≤ w) (m : RaMode) :
    (r.update .exact m w (.exact c)).1.Fed c w (k + 1) := by
  have hslot : k % w < w := Nat.mod_lt k hw
  have hold := h.buf _ hslot
  obtain ⟨hcount, hpos⟩ := RunningAverage.update_clock .exact m (.exact c) h.count h.pos
  have hlen : k % w < r.buf.length := by
    by_contra hge
    rw [List.getElem?_eq_none (Nat.not_lt.1 hge)] at hold
    cases hold
  refine ⟨fun i hi => ?_, ?_, hpos, hcount⟩
  · show (r.buf.set r.pos (.exact c))[i]? = _
    rw [h.pos]
    by_cases hik : k % w = i
    · rw [hik, List.getElem?_set_self (hik ▸ hlen), if_pos]
      have := Nat.mod_le k w
      omega
    · rw [List.getElem?_set_ne hik, h.buf i hi]
      have hsame : i < k + 1 ↔ i < k := by
        rcases Nat.lt_or_ge k w with hkw | hkw
        · rw [Nat.mod_eq_of_lt hkw] at hik; omega
        · omega
      simp only [hsame]
  · rw [RunningAverage.update_sum (by rw [h.pos]; exact hold), h.sum]
    refine congrArg NUM.exact ?_
    simp only [NUM.toRat_add_exact, NUM.toRat_exact]
    rcases Nat.lt_or_ge k w with hkw | hkw
    · rw [if_neg (by rw [Nat.mod_eq_of_lt hkw]; omega), Nat.min_eq_left hkw.le, Nat.min_eq_left hkw]
      push_cast; ring
    · rw [if_pos (by omega), Nat.min_eq_right hkw, Nat.min_eq_right (by omega)]
      ring

theorem RunningAverage.iterate_fed (hw : 1 ≤ w) (m : RaMode) (k : Nat) :
    ((fun r => (RunningAverage.update .exact m w (.exact c) r).1)^[k] (RunningAverage.initial .exact w)).Fed c w k := by
  induction k with
  | zero => exact RunningAverage.initial_fed
  | succ k ih =>
    rw [Function.iterate_succ_apply']
    exact ih.update hw m

end constant

/-- Settles O40: by induction on the updates; the mean divides `min(k, W)` constants. -/
theorem runningAverageConverges : Obligations.RunningAverageConverges := by
  intro w k c hw before
  have hsum : ∀ m, ((before m).update .exact m w (.exact c)).1.sum = .exact ((min (k + 1) w : Nat) * c) :=
    fun m => ((RunningAverage.iterate_fed hw m k).update hw m).sum
  have hcount := ((RunningAverage.iterate_fed (c := c) hw .partialWindow k).update hw .partialWindow).count
  constructor
  · rw [RunningAverage.update_mean, hsum, if_pos rfl]; rfl
  · rw [RunningAverage.update_mean, hsum, if_neg (by decide)]
    refine congrArg NUM.exact ?_
    rw [show RunningAverage.count _ = _ from hcount, NUM.toRat_exact]
    have hpos : ((min (k + 1) w : Nat) : Rat) ≠ 0 := by
      rw [Nat.cast_ne_zero]; omega
    exact mul_div_cancel_left₀ c hpos

/-! ## One put on a filter (R180) -/

/-- A fold over two lists side by side, as one over their indices. -/
theorem foldl_zip_eq_foldl_range {α β : Type} (g : β → α × α → β) (d : α) (n : Nat) {l l' : List α} (hl : l.length = n)
    (hl' : l'.length = n) (acc : β) :
    (l.zip l').foldl g acc = (List.range n).foldl (fun acc k => g acc (l.getD k d, l'.getD k d)) acc := by
  have hzip : l.zip l' = (List.range n).map fun k => (l.getD k d, l'.getD k d) := by
    apply List.ext_getElem
    · simp [hl, hl']
    · intro k hk _
      have hkn : k < n := by simpa [hl, hl'] using hk
      simp [hl, hl', hkn]
  rw [hzip, List.foldl_map]

theorem addTaps_eq_foldl_range (d : NumDomain) (n : Nat) {coeffs hist : List NUM} (hc : coeffs.length = n)
    (hh : hist.length = n) (acc : NUM) :
    addTaps d coeffs hist acc = (List.range n).foldl (fun acc k => NUM.add d acc
      (NUM.mul d (NUM.lit d (coeffs.getD k (NUM.zero d))) (hist.getD k (NUM.zero d)))) acc :=
  foldl_zip_eq_foldl_range _ (NUM.zero d) n hc hh acc

theorem subTaps_eq_foldl_range (d : NumDomain) (n : Nat) {coeffs hist : List NUM} (hc : coeffs.length = n)
    (hh : hist.length = n) (acc : NUM) :
    subTaps d coeffs hist acc = (List.range n).foldl (fun acc k => NUM.sub d acc
      (NUM.mul d (NUM.lit d (coeffs.getD k (NUM.zero d))) (hist.getD k (NUM.zero d)))) acc :=
  foldl_zip_eq_foldl_range _ (NUM.zero d) n hc hh acc

/-- A value shifted into a history of length `n`. -/
theorem getElem?_shifted {α : Type} (x : α) (l : List α) {n k : Nat} (hk : k + 1 < n) :
    ((x :: l).take n)[k + 1]? = l[k]? := by
  rw [List.getElem?_take_of_lt hk, List.getElem?_cons_succ]

theorem getElem?_shifted_zero {α : Type} (x : α) (l : List α) {n : Nat} (hn : 0 < n) : ((x :: l).take n)[0]? = some x := by
  rw [List.getElem?_take_of_lt hn, List.getElem?_cons_zero]

section put
variable {c : Config} {f : FilterState}

theorem FilterState.put_xh (x : NUM) : (f.put c x).xh = (x :: f.xh).take c.nb := rfl

theorem FilterState.put_yh (x : NUM) : (f.put c x).yh = ((f.put c x).y :: f.yh).take (c.na - 1) := rfl

/-- The output, over the new input history and the old output history (R180, D9). -/
theorem FilterState.put_y (hwf : c.wellFormed = true) (hfits : f.Fits c) (x : NUM) :
    (f.put c x).y = (List.range (c.na - 1)).foldl
      (fun acc k => NUM.sub c.num acc
        (NUM.mul c.num (NUM.lit c.num (c.a.getD k (NUM.zero c.num))) (f.yh.getD k (NUM.zero c.num))))
      ((List.range c.nb).foldl
        (fun acc k => NUM.add c.num acc
          (NUM.mul c.num (NUM.lit c.num (c.b.getD k (NUM.zero c.num))) ((f.put c x).xh.getD k (NUM.zero c.num))))
        (NUM.zero c.num)) := by
  obtain ⟨_, _, _, _, _, _, _, ⟨hb, _⟩, _, ⟨ha, _⟩, _⟩ := (Config.wellFormed_iff c).1 hwf
  have hxh : (f.put c x).xh.length = c.nb := by rw [FilterState.put_xh]; simp [hfits.xh_length]
  rw [← addTaps_eq_foldl_range c.num c.nb hb hxh, ← subTaps_eq_foldl_range c.num (c.na - 1) ha hfits.yh_length]
  rfl

end put

/-- Settles O28: by the put on the lane's own filter; the other lane is another field. -/
theorem filterPutWritesItsOwnLane : Obligations.FilterPutWritesItsOwnLane := by
  intro s ch x hwf hfits d old
  obtain ⟨_, _, _, _, _, _, hnb, _⟩ := (Config.wellFormed_iff s.cfg).1 hwf
  refine ⟨old.put s.cfg x, ?_, ?_, ?_, fun k hk => ?_, FilterState.put_y hwf hfits x, ?_, fun hna => ?_, fun k hk => ?_,
    ?_, fun other hother => ?_⟩
  · cases ch <;> rfl
  · rw [FilterState.put_xh]; simp [old, hfits.xh_length]
  · rw [FilterState.put_xh, getElem?_shifted_zero x _ hnb]
  · rw [FilterState.put_xh, getElem?_shifted x _ hk]
  · rw [FilterState.put_yh]; simp [old, hfits.yh_length]
  · rw [FilterState.put_yh, getElem?_shifted_zero _ _ (by omega)]
  · rw [FilterState.put_yh, getElem?_shifted _ _ hk]
  · cases ch <;> rfl
  · cases ch <;> cases other <;> [exact absurd rfl hother; rfl; rfl; exact absurd rfl hother]

/-! ## The difference equation (R172) -/

theorem toRat_foldl_add (g : Nat → NUM) (n : Nat) (acc : NUM) :
    ((List.range n).foldl (fun acc k => NUM.add .exact acc (g k)) acc).toRat =
      acc.toRat + ∑ k ∈ Finset.range n, (g k).toRat := by
  induction n with
  | zero => simp
  | succ n ih =>
    rw [List.range_succ, List.foldl_append, List.foldl_cons, List.foldl_nil, NUM.toRat_add_exact, ih,
      Finset.sum_range_succ, add_assoc]

theorem toRat_foldl_sub (g : Nat → NUM) (n : Nat) (acc : NUM) :
    ((List.range n).foldl (fun acc k => NUM.sub .exact acc (g k)) acc).toRat =
      acc.toRat - ∑ k ∈ Finset.range n, (g k).toRat := by
  induction n with
  | zero => simp
  | succ n ih =>
    rw [List.range_succ, List.foldl_append, List.foldl_cons, List.foldl_nil, NUM.toRat_sub_exact, ih,
      Finset.sum_range_succ, sub_sub]

/-- One output under exact arithmetic (R172). -/
theorem FilterState.put_y_toRat {c : Config} {f : FilterState} (hwf : c.wellFormed = true) (hnum : c.num = .exact)
    (hfits : f.Fits c) (x : NUM) :
    (f.put c x).y.toRat =
      (∑ k ∈ Finset.range c.nb, (c.b.getD k (.exact 0)).toRat * ((f.put c x).xh.getD k (.exact 0)).toRat) -
      ∑ k ∈ Finset.range (c.na - 1), (c.a.getD k (.exact 0)).toRat * (f.yh.getD k (.exact 0)).toRat := by
  rw [FilterState.put_y hwf hfits, hnum, toRat_foldl_sub, toRat_foldl_add]
  simp only [NUM.toRat_mul_exact, NUM.toRat_lit_exact, NUM.zero, NUM.toRat_exact, zero_add]

/-- The filter from reset after the first `n` of the inputs. -/
def filterAfter (c : Config) (xs : List Rat) (n : Nat) : FilterState :=
  (xs.take n).foldl (fun f x => FilterState.put c (.exact x) f) (FilterState.initial c)

section equation
variable {c : Config} {xs : List Rat}

theorem filterAfter_succ {n : Nat} (hn : n < xs.length) :
    filterAfter c xs (n + 1) = (filterAfter c xs n).put c (.exact (xs.getD n 0)) := by
  rw [filterAfter, List.take_succ_eq_append_getElem hn, List.foldl_append, List.getD_eq_getElem _ _ hn]; rfl

theorem filterAfter_fits (hnum : c.num = .exact) (n : Nat) : (filterAfter c xs n).Fits c := by
  unfold filterAfter
  generalize xs.take n = l
  induction l using List.reverseRecOn with
  | nil => exact FilterState.initial_fits c
  | append_singleton l x ih =>
    rw [List.foldl_append]
    exact FilterState.put_fits (by rw [hnum]; rfl) ih

/-- The input history after `n` inputs: the last ones, newest first, and zero before the first one. -/
theorem filterAfter_xh {n k : Nat} (hn : n ≤ xs.length) (hk : k < c.nb) (hnum : c.num = .exact) :
    (filterAfter c xs n).xh[k]? = some (.exact (if k < n then xs.getD (n - 1 - k) 0 else 0)) := by
  induction n generalizing k with
  | zero => simp [filterAfter, FilterState.initial, hnum, NUM.zero, hk]
  | succ n ih =>
    rw [filterAfter_succ hn, FilterState.put_xh]
    cases k with
    | zero => rw [getElem?_shifted_zero _ _ hk]; simp
    | succ k =>
      rw [getElem?_shifted _ _ hk, ih (by omega) (by omega)]
      simp [show n - 1 - k = n - (k + 1) by omega]

/-- The output history after `n` inputs: the last outputs, newest first, and zero before the first one. -/
theorem filterAfter_yh {n k : Nat} (hn : n ≤ xs.length) (hk : k < c.na - 1) (hnum : c.num = .exact) :
    (filterAfter c xs n).yh[k]? = some (if k < n then (filterAfter c xs (n - k)).y else .exact 0) := by
  induction n generalizing k with
  | zero => simp [filterAfter, FilterState.initial, hnum, NUM.zero, hk]
  | succ n ih =>
    have hy := filterAfter_succ (c := c) hn
    rw [hy, FilterState.put_yh, ← hy]
    cases k with
    | zero => rw [getElem?_shifted_zero _ _ hk]; simp
    | succ k =>
      rw [getElem?_shifted _ _ hk, ih (by omega) (by omega)]
      simp

end equation

/-- Settles O27: the put's sums, over histories that hold the last inputs and outputs. -/
theorem filterComputesItsDifferenceEquation : Obligations.FilterComputesItsDifferenceEquation := by
  intro c xs n hwf hnum hn out
  have hout : ∀ m, out m = (filterAfter c xs (m + 1)).y.toRat := fun _ => rfl
  rw [hout, filterAfter_succ hn, FilterState.put_y_toRat hwf hnum (filterAfter_fits hnum n), ← filterAfter_succ hn]
  rw [Finset.sum_Ico_eq_sum_range]
  congr 1
  · refine Finset.sum_congr rfl fun k hk => ?_
    rw [List.getD_eq_getElem?_getD (l := (filterAfter c xs (n + 1)).xh),
      filterAfter_xh (by omega) (Finset.mem_range.1 hk) hnum]
    by_cases hkn : k ≤ n
    · simp [hkn, Nat.lt_succ_of_le hkn]
    · simp [hkn, show ¬k < n + 1 by omega]
  · refine Finset.sum_congr rfl fun k hk => ?_
    rw [List.getD_eq_getElem?_getD (l := (filterAfter c xs n).yh),
      filterAfter_yh (by omega) (Finset.mem_range.1 hk) hnum, hout]
    by_cases hkn : k < n
    · simp [hkn, show 1 + k ≤ n by omega, show n - (1 + k) + 1 = n - k by omega]
    · simp [hkn, show ¬1 + k ≤ n by omega]

end Sys2Proof.Machine

/-!
# Rounding

The units of a magnitude code grow with the code, by one unit in the last place from each code to the next. A quotient
lies between two neighbouring codes, and `roundUnits` takes the nearer one, the even one on a tie, with the infinity for
every code from its own on (41_filter_pair.md R170). All that later proofs need of `roundUnits` follows from this.
-/

namespace Sys2Proof

/-! ## Units of a code -/

/-- A significand `g` above `k` binary places: the code's units are its value, a carry to `2^24` included. -/
theorem unitsOfCode_split {k g : Nat} (hg : g ≤ 2 ^ 24) (hk : k = 0 ∨ 2 ^ 23 ≤ g) :
    unitsOfCode (k * 2 ^ 23 + g) = g * 2 ^ k := by
  unfold unitsOfCode
  rcases Nat.lt_or_ge g (2 ^ 23) with hlow | hhigh
  · obtain rfl : k = 0 := hk.resolve_right (by omega)
    rw [if_pos (by omega), Nat.mod_eq_of_lt (by omega)]
    omega
  · rcases Nat.lt_or_ge g (2 ^ 24) with hnorm | hcarry
    · rw [show (k * 2 ^ 23 + g) / 2 ^ 23 = k + 1 by omega, show (k * 2 ^ 23 + g) % 2 ^ 23 = g - 2 ^ 23 by omega,
        if_neg (by omega), Nat.add_sub_cancel, Nat.add_sub_cancel' hhigh]
    · obtain rfl : g = 2 ^ 24 := by omega
      rw [show (k * 2 ^ 23 + 2 ^ 24) / 2 ^ 23 = k + 2 by omega, show (k * 2 ^ 23 + 2 ^ 24) % 2 ^ 23 = 0 by omega,
        if_neg (by omega), show k + 2 - 1 = k + 1 by omega, pow_succ]
      ring

/-- Every code is a significand below `2^24` above some binary places. -/
theorem exists_split (m : Nat) : ∃ k g, m = k * 2 ^ 23 + g ∧ g < 2 ^ 24 ∧ (k = 0 ∨ 2 ^ 23 ≤ g) := by
  rcases Nat.lt_or_ge m (2 ^ 24) with hlow | hhigh
  · exact ⟨0, m, by omega, hlow, .inl rfl⟩
  · exact ⟨m / 2 ^ 23 - 1, m % 2 ^ 23 + 2 ^ 23, by omega, by omega, .inr (by omega)⟩

theorem unitsOfCode_strictMono : StrictMono unitsOfCode := by
  refine strictMono_nat_of_lt_succ fun m => ?_
  obtain ⟨k, g, rfl, hg, hk⟩ := exists_split m
  rw [unitsOfCode_split hg.le hk, Nat.add_assoc, unitsOfCode_split hg (by omega)]
  exact Nat.mul_lt_mul_of_pos_right (Nat.lt_succ_self g) (Nat.two_pow_pos k)

@[simp] theorem unitsOfCode_zero : unitsOfCode 0 = 0 := rfl

theorem unitsOfCode_eq_zero_iff {m : Nat} : unitsOfCode m = 0 ↔ m = 0 :=
  ⟨fun h => unitsOfCode_strictMono.injective h, fun h => by rw [h, unitsOfCode_zero]⟩

theorem unitsOfCode_infCode : unitsOfCode infCode = 2 ^ 25 * 2 ^ 252 := by
  rw [show infCode = 254 * 2 ^ 23 + 2 ^ 23 from rfl, unitsOfCode_split (by norm_num) (.inr le_rfl), ← pow_add, ← pow_add]

/-- The largest finite value. -/
theorem unitsOfCode_maxFinite : unitsOfCode (infCode - 1) = (2 ^ 25 - 2) * 2 ^ 252 := by
  rw [show infCode - 1 = 253 * 2 ^ 23 + (2 ^ 24 - 1) from rfl, unitsOfCode_split (by norm_num) (.inr (by norm_num)),
    pow_succ' 2 252, ← Nat.mul_assoc]
  norm_num

/-! ## The code that a quotient rounds to -/

/-- The code `c` is the last one whose units are not above `num / den`. -/
structure Brackets (num den c : Nat) : Prop where
  lower : unitsOfCode c * den ≤ num
  upper : num < unitsOfCode (c + 1) * den

/-- The exponent that `roundUnits` takes leaves a significand of 24 bits, or is 0. -/
theorem significand_bounds {q k : Nat} (hk : k = if q < 2 ^ 24 then 0 else Nat.log2 q - 23) :
    q / 2 ^ k < 2 ^ 24 ∧ (k = 0 ∨ 2 ^ 23 ≤ q / 2 ^ k) := by
  split at hk
  next hlow =>
    subst hk
    exact ⟨by simpa using hlow, .inl rfl⟩
  next hhigh =>
    have hq : q ≠ 0 := by omega
    have hlog : 24 ≤ Nat.log2 q := (Nat.le_log2 hq).2 (Nat.not_lt.1 hhigh)
    have hle : 2 ^ 23 * 2 ^ k ≤ q := by
      rw [← pow_add, show 23 + k = Nat.log2 q by omega]
      exact Nat.log2_self_le hq
    have hlt : q < 2 ^ 24 * 2 ^ k := by
      rw [← pow_add, show 24 + k = Nat.log2 q + 1 by omega]
      exact Nat.lt_log2_self
    exact ⟨Nat.div_lt_of_lt_mul (by rwa [Nat.mul_comm]),
      .inr ((Nat.le_div_iff_mul_le (Nat.two_pow_pos k)).2 hle)⟩

/-- Below the midpoint of two neighbours the lower one is taken, above it the upper one, on it the even one; a code from
the infinity's on gives the infinity. -/
theorem roundUnits_cases (num : Nat) {den : Nat} (hden : 0 < den) :
    ∃ c, Brackets num den c ∧
      (2 * num < (unitsOfCode c + unitsOfCode (c + 1)) * den ∧ roundUnits num den = min c infCode ∨
       (unitsOfCode c + unitsOfCode (c + 1)) * den < 2 * num ∧ roundUnits num den = min (c + 1) infCode ∨
       2 * num = (unitsOfCode c + unitsOfCode (c + 1)) * den ∧ roundUnits num den = min (c + c % 2) infCode) := by
  obtain ⟨k, hk⟩ : ∃ k, k = if num / den < 2 ^ 24 then 0 else Nat.log2 (num / den) - 23 := ⟨_, rfl⟩
  obtain ⟨hlt, hnorm⟩ := significand_bounds hk
  rw [Nat.div_div_eq_div_mul] at hlt hnorm
  obtain ⟨d, hd⟩ : ∃ d, d = den * 2 ^ k := ⟨_, rfl⟩
  obtain ⟨f, hf⟩ : ∃ f, f = num / d := ⟨_, rfl⟩
  rw [← hd, ← hf] at hlt hnorm
  have hdpos : 0 < d := hd ▸ Nat.mul_pos hden (Nat.two_pow_pos k)
  have hmod : num % d < d := Nat.mod_lt num hdpos
  have hnum : num = f * d + num % d := by rw [hf, Nat.mul_comm]; exact (Nat.div_add_mod num d).symm
  have hlower : unitsOfCode (k * 2 ^ 23 + f) * den = f * d := by
    rw [unitsOfCode_split hlt.le hnorm, hd]; ring
  have hupper : unitsOfCode (k * 2 ^ 23 + f + 1) * den = f * d + d := by
    rw [Nat.add_assoc, unitsOfCode_split (show f + 1 ≤ 2 ^ 24 from hlt) (by omega), hd]; ring
  have hround : roundUnits num den =
      min (k * 2 ^ 23 + (f + if 2 * (num % d) < d then 0 else if d < 2 * (num % d) then 1 else f % 2)) infCode := by
    rw [hf, hd, hk]; rfl
  refine ⟨k * 2 ^ 23 + f, ⟨by omega, by omega⟩, ?_⟩
  rw [Nat.add_mul, hlower, hupper, hround]
  rcases Nat.lt_trichotomy (2 * (num % d)) d with hbelow | htie | habove
  · rw [if_pos hbelow]
    exact .inl ⟨by omega, by rw [Nat.add_zero]⟩
  · rw [if_neg (by omega), if_neg (by omega)]
    exact .inr (.inr ⟨by omega, by rw [Nat.add_assoc, show (k * 2 ^ 23 + f) % 2 = f % 2 by omega]⟩)
  · rw [if_neg (by omega), if_pos habove]
    exact .inr (.inl ⟨by omega, by rw [Nat.add_assoc]⟩)

theorem roundUnits_le_infCode (num den : Nat) : roundUnits num den ≤ infCode := Nat.min_le_right ..

/-- A quotient that is a code's units rounds to that code. -/
theorem roundUnits_of_eq {num den m : Nat} (hden : 0 < den) (hm : m ≤ infCode) (h : num = unitsOfCode m * den) :
    roundUnits num den = m := by
  obtain ⟨c, ⟨hlower, hupper⟩, hcases⟩ := roundUnits_cases num hden
  rw [h] at hlower hupper
  have hcm : c ≤ m := unitsOfCode_strictMono.le_iff_le.1 (Nat.le_of_mul_le_mul_right hlower hden)
  have hmc : m < c + 1 := unitsOfCode_strictMono.lt_iff_lt.1 (Nat.lt_of_mul_lt_mul_right hupper)
  obtain rfl : c = m := by omega
  have hbelow : 2 * num < (unitsOfCode c + unitsOfCode (c + 1)) * den := by
    rw [h, Nat.add_mul]; omega
  rcases hcases with ⟨_, hround⟩ | ⟨habove, _⟩ | ⟨htie, _⟩
  · rw [hround, Nat.min_eq_left hm]
  · omega
  · omega

@[simp] theorem roundUnits_zero {den : Nat} (hden : 0 < den) : roundUnits 0 den = 0 :=
  roundUnits_of_eq hden (Nat.zero_le _) (by simp)

theorem roundUnits_mul_left {a : Nat} (ha : 0 < a) (num den : Nat) :
    roundUnits (a * num) (a * den) = roundUnits num den := by
  have hlt : ∀ r d, 2 * (a * r) < a * d ↔ 2 * r < d := fun r d => by
    rw [Nat.mul_left_comm]; exact Nat.mul_lt_mul_left ha
  have hgt : ∀ r d, a * d < 2 * (a * r) ↔ d < 2 * r := fun r d => by
    rw [Nat.mul_left_comm]; exact Nat.mul_lt_mul_left ha
  simp only [roundUnits, Nat.mul_assoc, Nat.mul_div_mul_left _ _ ha, Nat.mul_mod_mul_left, hlt, hgt]

/-- Only the quotient counts. -/
theorem roundUnits_congr {num den num' den' : Nat} (hden : 0 < den) (hden' : 0 < den')
    (h : num * den' = num' * den) : roundUnits num den = roundUnits num' den' := by
  rw [← roundUnits_mul_left hden' num den, ← roundUnits_mul_left hden num' den', Nat.mul_comm den' num, h,
    Nat.mul_comm num' den, Nat.mul_comm den' den]

/-- Half a unit in the last place above the largest finite value, in units. -/
theorem overflow_threshold : 2 ^ 277 - 2 ^ 252 = (2 ^ 25 - 1) * 2 ^ 252 := by
  rw [show 277 = 25 + 252 from rfl, pow_add, Nat.sub_mul, Nat.one_mul]

/-- The infinity from half a unit in the last place above the largest finite value on. -/
theorem roundUnits_eq_infCode_iff (num : Nat) {den : Nat} (hden : 0 < den) :
    roundUnits num den = infCode ↔ den * (2 ^ 277 - 2 ^ 252) ≤ num := by
  obtain ⟨c, ⟨hlower, hupper⟩, hcases⟩ := roundUnits_cases num hden
  have hmono : ∀ {i j}, i ≤ j → unitsOfCode i * den ≤ unitsOfCode j * den := fun hij =>
    Nat.mul_le_mul_right den (unitsOfCode_strictMono.monotone hij)
  have hmax : unitsOfCode (infCode - 1) * den = (2 ^ 25 - 2) * (2 ^ 252 * den) := by
    rw [unitsOfCode_maxFinite, Nat.mul_assoc]
  have hinf : unitsOfCode infCode * den = 2 ^ 25 * (2 ^ 252 * den) := by rw [unitsOfCode_infCode, Nat.mul_assoc]
  have hpos : 0 < 2 ^ 252 * den := Nat.mul_pos (Nat.two_pow_pos 252) hden
  rw [overflow_threshold, Nat.mul_comm, Nat.mul_assoc]
  rw [Nat.add_mul] at hcases
  have heven : infCode % 2 = 0 ∧ 2 ≤ infCode := by decide
  generalize 2 ^ 252 * den = unit at hmax hinf hpos ⊢
  generalize infCode = inf at hmax hinf hcases heven ⊢
  rcases Nat.lt_trichotomy c (inf - 1) with hbelow | rfl | habove
  · have hle := hmono (show c + 1 ≤ inf - 1 by omega)
    rcases hcases with ⟨_, h⟩ | ⟨_, h⟩ | ⟨_, h⟩ <;> rw [h] <;> constructor <;> intro <;> omega
  · rw [Nat.sub_add_cancel (by omega)] at hupper hcases
    rcases hcases with ⟨_, h⟩ | ⟨_, h⟩ | ⟨_, h⟩ <;> rw [h] <;> constructor <;> intro <;> omega
  · have hge := hmono (show inf ≤ c by omega)
    rcases hcases with ⟨_, h⟩ | ⟨_, h⟩ | ⟨_, h⟩ <;> rw [h] <;> constructor <;> intro <;> omega

/-- Each code's units are those of one of the two neighbours, or further away than both. -/
theorem units_outside {den : Nat} (hden : 0 < den) (c m : Nat) :
    m = c ∨ m = c + 1 ∨ unitsOfCode m * den < unitsOfCode c * den ∨
      unitsOfCode (c + 1) * den < unitsOfCode m * den := by
  have hlt : ∀ {i j}, i < j → unitsOfCode i * den < unitsOfCode j * den := fun hij =>
    Nat.mul_lt_mul_of_pos_right (unitsOfCode_strictMono hij) hden
  rcases Nat.lt_trichotomy m c with h | h | h
  · exact .inr (.inr (.inl (hlt h)))
  · exact .inl h
  · rcases Nat.lt_or_ge (c + 1) m with h' | h'
    · exact .inr (.inr (.inr (hlt h')))
    · exact .inr (.inl (by omega))

/-- Settles O30: every code but the two neighbours is further away than both of them. -/
theorem roundingIsToNearestTiesToEven : Obligations.RoundingIsToNearestTiesToEven := by
  intro num den hden
  refine ⟨roundUnits_eq_infCode_iff num hden, fun hfin => ⟨lt_of_le_of_ne (roundUnits_le_infCode num den) hfin, ?_⟩⟩
  intro m _ err
  obtain ⟨c, ⟨hlower, hupper⟩, hcases⟩ := roundUnits_cases num hden
  have herr : ∀ k, err k = ((unitsOfCode k * den : Nat) - (num : Int)).natAbs := fun _ => rfl
  have hm := units_outside hden c m
  rw [Nat.add_mul] at hcases
  have hmin : ∀ x, roundUnits num den = min x infCode → roundUnits num den = x := fun x hx =>
    (min_choice x infCode).elim hx.trans fun hinf => absurd (hx.trans hinf) hfin
  rcases hcases with ⟨hmid, hround⟩ | ⟨hmid, hround⟩ | ⟨hmid, hround⟩
  · rw [hmin _ hround, herr, herr]
    rcases hm with rfl | rfl | hm | hm <;> omega
  · rw [hmin _ hround, herr, herr]
    rcases hm with rfl | rfl | hm | hm <;> omega
  · rw [hmin _ hround, herr, herr]
    rcases Nat.mod_two_eq_zero_or_one c with heven | hodd
    · rw [heven, Nat.add_zero]
      rcases hm with rfl | rfl | hm | hm <;> omega
    · rw [hodd]
      rcases hm with rfl | rfl | hm | hm <;> omega

end Sys2Proof

/-!
# Patterns and their values

A pattern is a sign and a magnitude code (30_encoding.md R113). What it is (finite, an infinity, a NaN) and, where it is
finite, its rational value are read off the two.
-/

namespace Sys2Proof

/-! ## A pattern as its sign and code -/

/-- The pattern of a sign and a magnitude code: the bits of `F32.ofCode`. -/
def codeBits (neg : Bool) (m : Nat) : BitVec 32 := BitVec.ofNat 32 ((if neg then 2 ^ 31 else 0) + m)

theorem F32.ofCode_eq (neg : Bool) (m : Nat) : F32.ofCode neg m = .val (codeBits neg m) := rfl

theorem magCode_lt (w : BitVec 32) : magCode w < 2 ^ 31 := Nat.mod_lt _ (Nat.two_pow_pos 31)

theorem codeBits_toNat (neg : Bool) {m : Nat} (hm : m < 2 ^ 31) :
    (codeBits neg m).toNat = (if neg then 2 ^ 31 else 0) + m := by
  rw [codeBits, BitVec.toNat_ofNat, Nat.mod_eq_of_lt]
  cases neg <;> simp <;> omega

@[simp] theorem magCode_codeBits (neg : Bool) {m : Nat} (hm : m < 2 ^ 31) : magCode (codeBits neg m) = m := by
  rw [magCode, codeBits_toNat neg hm]
  cases neg <;> simp only [Bool.false_eq_true, if_true, if_false] <;> omega

@[simp] theorem signBit_codeBits (neg : Bool) {m : Nat} (hm : m < 2 ^ 31) : signBit (codeBits neg m) = neg := by
  rw [signBit, codeBits_toNat neg hm]
  cases neg <;> simp only [Bool.false_eq_true, if_true, if_false, decide_eq_true_eq, decide_eq_false_iff_not] <;> omega

theorem F32.neg_val (w : BitVec 32) : F32.neg (.val w) = .val (codeBits (!signBit w) (magCode w)) := rfl

/-! ## Finite, infinite, NaN -/

theorem infCode_lt : infCode < 2 ^ 31 := by decide

theorem expField_toNat (w : BitVec 32) : (w.extractLsb' 23 8).toNat = magCode w / 2 ^ 23 := by
  have hlt : w.toNat < 2 ^ 32 := w.isLt
  rw [BitVec.extractLsb'_toNat, Nat.shiftRight_eq_div_pow, magCode]
  omega

theorem fraction_toNat (w : BitVec 32) : (w.extractLsb' 0 23).toNat = magCode w % 2 ^ 23 := by
  rw [BitVec.extractLsb'_toNat, Nat.shiftRight_eq_div_pow, magCode]
  omega

theorem finiteBits_iff (w : BitVec 32) : finiteBits w = true ↔ magCode w < infCode := by
  have hlt := magCode_lt w
  have hexp := expField_toNat w
  rw [Machine.finiteBits_eq_true_iff, ne_eq, ← BitVec.toNat_inj, hexp, BitVec.toNat_ofNat]
  show ¬magCode w / 2 ^ 23 = 255 % 2 ^ 8 ↔ magCode w < 2139095040
  omega

theorem nanBits_iff (w : BitVec 32) : nanBits w = true ↔ infCode < magCode w := decide_eq_true_iff

theorem infBits_iff (w : BitVec 32) : infBits w = true ↔ magCode w = infCode := beq_iff_eq

section finite
variable {w : BitVec 32} (h : finiteBits w = true)
include h

theorem magCode_lt_of_finite : magCode w < infCode := (finiteBits_iff w).1 h

theorem nanBits_of_finite : nanBits w = false := by
  rw [← Bool.not_eq_true, nanBits_iff]; exact Nat.lt_asymm (magCode_lt_of_finite h)

theorem infBits_of_finite : infBits w = false := by
  rw [← Bool.not_eq_true, infBits_iff]; exact Nat.ne_of_lt (magCode_lt_of_finite h)

end finite

section code
variable (neg : Bool) {m : Nat}

theorem nanBits_codeBits (hm : m ≤ infCode) : nanBits (codeBits neg m) = false := by
  rw [← Bool.not_eq_true, nanBits_iff, magCode_codeBits neg (hm.trans_lt infCode_lt)]; exact Nat.not_lt.2 hm

theorem finiteBits_codeBits (hm : m < infCode) : finiteBits (codeBits neg m) = true := by
  rwa [finiteBits_iff, magCode_codeBits neg (hm.trans infCode_lt)]

@[simp] theorem infBits_infinity : infBits (codeBits neg infCode) = true := by
  rw [infBits_iff, magCode_codeBits neg infCode_lt]

@[simp] theorem nanBits_infinity : nanBits (codeBits neg infCode) = false := nanBits_codeBits neg le_rfl

@[simp] theorem signBit_infinity : signBit (codeBits neg infCode) = neg := signBit_codeBits neg infCode_lt

@[simp] theorem magCode_infinity : magCode (codeBits neg infCode) = infCode := magCode_codeBits neg infCode_lt

end code

/-! ## Values -/

/-- `-1` for a set sign bit, `1` otherwise (R113). -/
def signOf (neg : Bool) : Rat := if neg then -1 else 1

theorem signOf_not (neg : Bool) : signOf (!neg) = -signOf neg := by cases neg <;> simp [signOf]

theorem signOf_bne (s t : Bool) : signOf (s != t) = signOf s * signOf t := by cases s <;> cases t <;> simp [signOf]

theorem signOf_mul_self (neg : Bool) : signOf neg * signOf neg = 1 := by cases neg <;> simp [signOf]

theorem signedUnits_eq (w : BitVec 32) : (signedUnits w : Rat) = signOf (signBit w) * unitsOfCode (magCode w) := by
  unfold signedUnits signOf
  cases signBit w <;> simp

/-- A finite value is its sign and its units of `2^-149` (R113). -/
theorem ratOfBits_eq (w : BitVec 32) : ratOfBits w = signedUnits w / 2 ^ 149 := by
  rw [ratOfBits, Rat.mkRat_eq_div]
  norm_num

theorem ratOfBits_eq_sign_units (w : BitVec 32) :
    ratOfBits w = signOf (signBit w) * unitsOfCode (magCode w) / 2 ^ 149 := by
  rw [ratOfBits_eq, signedUnits_eq]

theorem ratOfBits_codeBits (neg : Bool) {m : Nat} (hm : m < 2 ^ 31) :
    ratOfBits (codeBits neg m) = signOf neg * unitsOfCode m / 2 ^ 149 := by
  rw [ratOfBits_eq_sign_units, signBit_codeBits neg hm, magCode_codeBits neg hm]

theorem ratOfBits_neg (w : BitVec 32) : ratOfBits (codeBits (!signBit w) (magCode w)) = -ratOfBits w := by
  rw [ratOfBits_codeBits _ (magCode_lt w), ratOfBits_eq_sign_units, signOf_not]
  ring

theorem ratOfBits_eq_zero_iff (w : BitVec 32) : ratOfBits w = 0 ↔ magCode w = 0 := by
  rw [ratOfBits_eq_sign_units, ← unitsOfCode_eq_zero_iff]
  cases signBit w <;> simp [signOf]

theorem F32.toRat_val {w : BitVec 32} (h : finiteBits w = true) : (F32.val w).toRat = ratOfBits w := if_pos h

theorem F32.ofBits_of_finite {w : BitVec 32} (h : finiteBits w = true) : F32.ofBits w = .val w := by
  rw [F32.ofBits, nanBits_of_finite h]; rfl

/-- A code that is not that of an infinity gives a finite value. -/
theorem F32.toRat_ofCode (neg : Bool) {m : Nat} (hm : m < infCode) :
    (F32.ofCode neg m).toRat = signOf neg * unitsOfCode m / 2 ^ 149 := by
  rw [F32.ofCode_eq, F32.toRat_val (finiteBits_codeBits neg hm), ratOfBits_codeBits neg (hm.trans infCode_lt)]

/-! ## Bypass components (R113, R114) -/

theorem Machine.decodeNum_binary32 {c : Config} (hnum : c.num = .binary32) (w : BitVec 32) :
    Machine.decodeNum c w = .f32 (F32.ofBits w) := by
  rw [Machine.decodeNum, hnum]; rfl

theorem Machine.decodeNum_exact {c : Config} (hnum : c.num = .exact) (w : BitVec 32) :
    Machine.decodeNum c w = .exact (c.bypassCodec.ratValue w) := by
  rw [Machine.decodeNum, hnum]; rfl

/-- The units over `2^149`, by exponent field and fraction (R113). -/
theorem units_by_fields (m : Nat) :
    (unitsOfCode m : Rat) / 2 ^ 149 =
      if m / 2 ^ 23 = 0 then ((m % 2 ^ 23 : Nat) : Rat) * 2 ^ (-149 : Int)
      else (2 ^ 23 + (m % 2 ^ 23 : Nat) : Rat) * 2 ^ ((m / 2 ^ 23 : Nat) - 150 : Int) := by
  unfold unitsOfCode
  split
  next => rw [zpow_neg, div_eq_mul_inv]; norm_cast
  next hexp =>
    obtain ⟨e, he⟩ : ∃ e, m / 2 ^ 23 = e + 1 := ⟨m / 2 ^ 23 - 1, by omega⟩
    rw [he, Nat.add_sub_cancel, show ((e + 1 : Nat) - 150 : Int) = (e : Int) - 149 by omega, zpow_sub₀ (by norm_num)]
    push_cast
    rw [zpow_natCast, mul_div_assoc]
    norm_cast

/-- Settles O25: the pattern's sign, exponent field and fraction. -/
theorem bypassComponentsDecodeToTheirValue : Obligations.BypassComponentsDecodeToTheirValue := by
  intro c w hfin
  refine ⟨fun hnum => ?_, fun hnum hcodec => ?_⟩
  · rw [Machine.decodeNum_binary32 hnum, F32.ofBits_of_finite hfin]
  · have hsign : w.getLsbD 31 = signBit w := by
      rw [signBit, ← BitVec.msb_eq_getLsbD_last, BitVec.msb_eq_decide]
    have hvalue : ratOfBits w = signOf (signBit w) * (unitsOfCode (magCode w) / 2 ^ 149) := by
      rw [ratOfBits_eq_sign_units, mul_div_assoc]
    rw [Machine.decodeNum_exact hnum, hcodec, BypassCodec.ratValue_binary32Pair, F32.ofBits_of_finite hfin,
      F32.toRat_val hfin, hvalue, units_by_fields, hsign, expField_toNat, fraction_toNat]
    rfl

theorem lookup_map_self {α β : Type} [BEq α] [LawfulBEq α] (f : α → β) {l : List α} {a : α} (h : a ∈ l) :
    (l.map fun x => (x, f x)).lookup a = some (f a) := by
  induction l with
  | nil => cases h
  | cons x l ih =>
    rw [List.map_cons, List.lookup_cons]
    by_cases hx : a = x
    · rw [hx, beq_self_eq_true]
    · rw [beq_false_of_ne hx]
      exact ih ((List.mem_cons.1 h).resolve_left hx)

/-- All patterns. -/
def allPatterns : List (BitVec 32) := (List.range (2 ^ 32)).map (BitVec.ofNat 32)

theorem mem_allPatterns (w : BitVec 32) : w ∈ allPatterns :=
  List.mem_map.2 ⟨w.toNat, List.mem_range.2 w.isLt, by rw [BitVec.ofNat_toNat, BitVec.setWidth_eq]⟩

/-- Settles O26: the list of all patterns with what the decoder reads from each is a codec. -/
theorem everyDecoderIsSomeCodec : Obligations.EveryDecoderIsSomeCodec := by
  intro c hnum
  have hread : ∀ codec w, Machine.decodeNum { c with bypassCodec := codec } w = .exact (codec.ratValue w) :=
    fun codec w => Machine.decodeNum_exact (c := { c with bypassCodec := codec }) hnum w
  refine ⟨fun decoder => ⟨.table (allPatterns.map fun w => (w, decoder w)), fun w => ?_⟩, fun entries w hcodec => ?_⟩
  · rw [hread, BypassCodec.ratValue_table, lookup_map_self decoder (mem_allPatterns w), Option.getD_some]
  · rw [Machine.decodeNum_exact hnum, hcodec, BypassCodec.ratValue_table, hread]
    exact ⟨fun q hq => by rw [hq, Option.getD_some], fun hnone => by
      rw [hnone, Option.getD_none, BypassCodec.ratValue_binary32Pair]⟩

end Sys2Proof

/-!
# The binary32 operations

Each operation on finite operands is the exact rational result rounded once (41_filter_pair.md R170), which says at once
when it is exact and when it overflows; infinities, zero divisors and NaNs are the cases before that (R171). The
comparison is that of the signed codes, which grow with the values (R220).
-/

namespace Sys2Proof

/-! ## Rounding a rational -/

theorem abs_eq_natAbs_div_den (q : Rat) : |q| = (q.num.natAbs : Rat) / q.den := by
  rw [Nat.cast_natAbs, Int.cast_abs]
  conv_lhs => rw [← Rat.num_div_den q, abs_div, Nat.abs_cast]

/-- Only the sign and the quotient of the units count, however the rational is written. -/
theorem F32.ofRat_of_sign_units {neg : Bool} {num den : Nat} {q : Rat} (hnum : 0 < num) (hden : 0 < den)
    (hq : q = signOf neg * ((num : Rat) / den) / 2 ^ 149) : F32.ofRat q = F32.ofCode neg (roundUnits num den) := by
  have hmag : (0 : Rat) < (num : Rat) / den / 2 ^ 149 := by positivity
  have hq' : q = signOf neg * ((num : Rat) / den / 2 ^ 149) := by rw [hq, mul_div_assoc]
  have habs : |q| = (num : Rat) / den / 2 ^ 149 := by
    rw [hq', abs_mul, abs_of_pos hmag]
    cases neg <;> simp [signOf]
  have hneg : decide (q < 0) = neg := by
    rw [hq']
    cases neg
    · simpa [signOf] using hmag.le
    · simpa [signOf] using hmag
  have hcross : q.num.natAbs * 2 ^ 149 * den = num * q.den := by
    rw [abs_eq_natAbs_div_den, div_div, div_eq_div_iff (by exact_mod_cast q.den_ne_zero) (by positivity)] at habs
    rw [Nat.mul_assoc, Nat.mul_comm (2 ^ 149)]
    exact_mod_cast habs
  rw [F32.ofRat, hneg, roundUnits_congr q.den_pos hden hcross]

/-- Rounding a representable rational gives it back. -/
theorem F32.toRat_ofRat_ratOfBits {r : BitVec 32} (hr : finiteBits r = true) :
    (F32.ofRat (ratOfBits r)).toRat = ratOfBits r := by
  have hlt := magCode_lt_of_finite hr
  by_cases hzero : ratOfBits r = 0
  · rw [hzero, F32.ofRat, Rat.num_zero, Int.natAbs_zero, Nat.zero_mul, roundUnits_zero (Rat.den_pos 0),
      F32.toRat_ofCode _ (by decide)]
    simp
  · have hpos : 0 < unitsOfCode (magCode r) := by
      rw [ratOfBits_eq_zero_iff] at hzero
      exact Nat.pos_of_ne_zero fun h => hzero (unitsOfCode_eq_zero_iff.1 h)
    rw [F32.ofRat_of_sign_units (neg := signBit r) hpos Nat.one_pos (by rw [ratOfBits_eq_sign_units]; simp),
      roundUnits_of_eq Nat.one_pos hlt.le (Nat.mul_one _).symm, F32.toRat_ofCode _ hlt, ratOfBits_eq_sign_units]

theorem roundSigned_eq (z : Bool) (n : Int) :
    roundSigned z n = if (n : Rat) / 2 ^ 149 = 0 then F32.ofCode z 0 else F32.ofRat ((n : Rat) / 2 ^ 149) := by
  have hiff : (n : Rat) / 2 ^ 149 = 0 ↔ n = 0 := by simp
  rw [roundSigned]
  by_cases hn : n = 0
  · rw [if_pos hn, if_pos (hiff.2 hn)]
  · have hsign : (n : Rat) = signOf (decide (n < 0)) * ((n.natAbs : Nat) : Rat) := by
      rw [Nat.cast_natAbs]
      rcases lt_or_gt_of_ne hn with h | h
      · simp [h, signOf, abs_of_neg h]
      · simp [not_lt.2 h.le, signOf, abs_of_pos h]
    rw [if_neg hn, if_neg (mt hiff.1 hn)]
    refine (F32.ofRat_of_sign_units (Int.natAbs_pos.2 hn) Nat.one_pos ?_).symm
    rw [Nat.cast_one, div_one, ← hsign]

/-! ## The operations on finite operands -/

section finite
variable {a b : BitVec 32} (ha : finiteBits a = true) (hb : finiteBits b = true)

theorem F32.finite_neg (h : finiteBits b = true) : finiteBits (codeBits (!signBit b) (magCode b)) = true :=
  finiteBits_codeBits _ (magCode_lt_of_finite h)

include ha hb

theorem F32.add_finite :
    F32.add (.val a) (.val b) =
      if ratOfBits a + ratOfBits b = 0 then F32.ofCode (signBit a && signBit b) 0
      else F32.ofRat (ratOfBits a + ratOfBits b) := by
  have hsum : ratOfBits a + ratOfBits b = ((signedUnits a + signedUnits b : Int) : Rat) / 2 ^ 149 := by
    rw [ratOfBits_eq, ratOfBits_eq, ← add_div, Int.cast_add]
  rw [hsum, ← roundSigned_eq]
  simp [F32.add, nanBits_of_finite ha, nanBits_of_finite hb, infBits_of_finite ha, infBits_of_finite hb]

theorem F32.sub_finite :
    F32.sub (.val a) (.val b) =
      if ratOfBits a - ratOfBits b = 0 then F32.ofCode (signBit a && !signBit b) 0
      else F32.ofRat (ratOfBits a - ratOfBits b) := by
  rw [F32.sub, F32.neg_val, F32.add_finite ha (F32.finite_neg hb), ratOfBits_neg, ← sub_eq_add_neg,
    signBit_codeBits _ (magCode_lt b)]

theorem F32.mul_finite :
    F32.mul (.val a) (.val b) =
      if ratOfBits a * ratOfBits b = 0 then F32.ofCode (signBit a != signBit b) 0
      else F32.ofRat (ratOfBits a * ratOfBits b) := by
  have hmul : F32.mul (.val a) (.val b) = F32.ofCode (signBit a != signBit b)
      (roundUnits (unitsOfCode (magCode a) * unitsOfCode (magCode b)) (2 ^ 149)) := by
    simp [F32.mul, nanBits_of_finite ha, nanBits_of_finite hb, infBits_of_finite ha, infBits_of_finite hb]
  rw [hmul]
  split
  next hzero =>
    rw [mul_eq_zero, ratOfBits_eq_zero_iff, ratOfBits_eq_zero_iff, ← unitsOfCode_eq_zero_iff,
      ← unitsOfCode_eq_zero_iff (m := magCode b), ← Nat.mul_eq_zero] at hzero
    rw [hzero, roundUnits_zero (Nat.two_pow_pos 149)]
  next hne =>
    rw [mul_eq_zero, ratOfBits_eq_zero_iff, ratOfBits_eq_zero_iff, ← unitsOfCode_eq_zero_iff,
      ← unitsOfCode_eq_zero_iff (m := magCode b), ← Nat.mul_eq_zero] at hne
    refine (F32.ofRat_of_sign_units (Nat.pos_of_ne_zero hne) (Nat.two_pow_pos 149) ?_).symm
    rw [ratOfBits_eq_sign_units, ratOfBits_eq_sign_units, signOf_bne]
    push_cast
    ring

theorem F32.div_finite (hne : ratOfBits b ≠ 0) :
    F32.div (.val a) (.val b) =
      if ratOfBits a = 0 then F32.ofCode (signBit a != signBit b) 0
      else F32.ofRat (ratOfBits a / ratOfBits b) := by
  have hcode : magCode b ≠ 0 := by rwa [ne_eq, ratOfBits_eq_zero_iff] at hne
  have hunits : 0 < unitsOfCode (magCode b) := Nat.pos_of_ne_zero (mt unitsOfCode_eq_zero_iff.1 hcode)
  have hdiv : F32.div (.val a) (.val b) = F32.ofCode (signBit a != signBit b)
      (roundUnits (unitsOfCode (magCode a) * 2 ^ 149) (unitsOfCode (magCode b))) := by
    simp [F32.div, nanBits_of_finite ha, nanBits_of_finite hb, infBits_of_finite ha, infBits_of_finite hb, hcode]
  rw [hdiv]
  split
  next hzero =>
    rw [ratOfBits_eq_zero_iff, ← unitsOfCode_eq_zero_iff] at hzero
    rw [hzero, Nat.zero_mul, roundUnits_zero hunits]
  next hne' =>
    rw [ratOfBits_eq_zero_iff, ← unitsOfCode_eq_zero_iff] at hne'
    refine (F32.ofRat_of_sign_units (Nat.mul_pos (Nat.pos_of_ne_zero hne') (Nat.two_pow_pos 149)) hunits ?_).symm
    have hb' : (unitsOfCode (magCode b) : Rat) ≠ 0 := by exact_mod_cast hunits.ne'
    have hsb : signOf (signBit b) ≠ 0 := by cases signBit b <;> simp [signOf]
    rw [ratOfBits_eq_sign_units, ratOfBits_eq_sign_units, signOf_bne]
    push_cast
    field_simp
    rw [sq, signOf_mul_self]
    norm_num

end finite

/-- Settles O32: the finite cases of the three operations; the rest is by the operators' definitions. -/
theorem operationsRoundTheExactResult : Obligations.OperationsRoundTheExactResult :=
  ⟨fun _ _ ha hb => ⟨F32.add_finite ha hb, F32.sub_finite ha hb, F32.mul_finite ha hb⟩,
    fun _ _ => ⟨rfl, rfl, rfl, rfl⟩, fun _ _ => ⟨rfl, rfl, rfl, rfl⟩, rfl, rfl⟩

/-- An exact result rounded once is exact where it is representable, zero of either sign included. -/
theorem F32.toRat_rounded {q : Rat} {r : BitVec 32} (z : Bool) (hr : finiteBits r = true) (h : ratOfBits r = q) :
    (if q = 0 then F32.ofCode z 0 else F32.ofRat q).toRat = ratOfBits r := by
  subst h
  split
  next hzero => rw [F32.toRat_ofCode z (by decide), hzero]; simp
  next => exact F32.toRat_ofRat_ratOfBits hr

/-- Settles O31: each operation rounds the exact result once. -/
theorem representableResultsAreExact : Obligations.RepresentableResultsAreExact := by
  intro a b r ha hb hr
  refine ⟨fun h => ?_, fun h => ?_, fun h => ?_⟩
  · rw [F32.add_finite ha hb]; exact F32.toRat_rounded _ hr h
  · rw [F32.sub_finite ha hb]; exact F32.toRat_rounded _ hr h
  · rw [F32.mul_finite ha hb]; exact F32.toRat_rounded _ hr h

/-! ## Division by an integer -/

theorem F32.ofNat_eq_ofRat (k : Nat) : F32.ofNat k = F32.ofRat k := by
  rw [F32.ofNat, F32.ofRat, Rat.num_natCast, Int.natAbs_natCast, Rat.den_natCast,
    decide_eq_false (not_lt.2 (Nat.cast_nonneg k))]

/-- Up to `2^24` an integer has a code of its own: shifted up to 24 bits it is the significand. -/
theorem exists_code_of_nat {k : Nat} (hk : k ≤ 2 ^ 24) : ∃ m, m < infCode ∧ unitsOfCode m = k * 2 ^ 149 := by
  rcases Nat.eq_zero_or_pos k with rfl | hpos
  · exact ⟨0, by decide, by simp⟩
  obtain ⟨e, he, hlow, hhigh⟩ : ∃ e, e ≤ 149 ∧ 2 ^ 23 ≤ k * 2 ^ e ∧ k * 2 ^ e ≤ 2 ^ 24 := by
    rcases Nat.eq_or_lt_of_le hk with rfl | hlt
    · exact ⟨0, by omega, by norm_num, by norm_num⟩
    · have hlog : Nat.log2 k < 24 := (Nat.log2_lt hpos.ne').2 hlt
      refine ⟨23 - Nat.log2 k, by omega, ?_, ?_⟩
      · calc 2 ^ 23 = 2 ^ Nat.log2 k * 2 ^ (23 - Nat.log2 k) := by rw [← pow_add]; congr 1; omega
          _ ≤ k * 2 ^ (23 - Nat.log2 k) := Nat.mul_le_mul_right _ (Nat.log2_self_le hpos.ne')
      · calc k * 2 ^ (23 - Nat.log2 k) ≤ 2 ^ (Nat.log2 k + 1) * 2 ^ (23 - Nat.log2 k) :=
              Nat.mul_le_mul_right _ Nat.lt_log2_self.le
          _ = 2 ^ 24 := by rw [← pow_add]; congr 1; omega
  refine ⟨(149 - e) * 2 ^ 23 + k * 2 ^ e, ?_, ?_⟩
  · show _ < 2139095040
    omega
  · rw [unitsOfCode_split hhigh (.inr hlow), Nat.mul_assoc, ← pow_add]
    congr 2; omega

theorem F32.ofNat_of_le {k : Nat} (hk : k ≤ 2 ^ 24) :
    ∃ w, F32.ofNat k = .val w ∧ finiteBits w = true ∧ signBit w = false ∧ ratOfBits w = k := by
  obtain ⟨m, hm, hunits⟩ := exists_code_of_nat hk
  have hlt := hm.trans infCode_lt
  refine ⟨codeBits false m, ?_, finiteBits_codeBits false hm, signBit_codeBits false hlt, ?_⟩
  · rw [F32.ofNat, roundUnits_of_eq Nat.one_pos hm.le (by rw [hunits, Nat.mul_one]), F32.ofCode_eq]
  · rw [ratOfBits_codeBits false hlt, hunits, Nat.cast_mul, Nat.cast_pow, Nat.cast_ofNat,
      show signOf false = 1 from rfl, one_mul, mul_div_cancel_right₀ _ (by norm_num)]

/-- Settles O33: the quotient is rounded once, and up to `2^24` the divisor is the integer itself. -/
theorem divisionRoundsTheExactQuotient : Obligations.DivisionRoundsTheExactQuotient := by
  refine ⟨fun a b ha hb hne => F32.div_finite ha hb hne, F32.ofNat_eq_ofRat, fun k hk => ?_, fun _ _ _ => rfl,
    fun _ _ _ => rfl, fun a k ha hpos hk => ?_⟩
  · obtain ⟨w, hw, hfin, _, hvalue⟩ := F32.ofNat_of_le hk
    rw [hw]
    exact ⟨hfin, by rw [F32.toRat_val hfin, hvalue]⟩
  · obtain ⟨w, hw, hfin, hsign, hvalue⟩ := F32.ofNat_of_le hk
    have hne : ratOfBits w ≠ 0 := by rw [hvalue]; exact_mod_cast Nat.one_le_iff_ne_zero.1 hpos
    refine congrArg NUM.f32 ?_
    show F32.div (.val a) (F32.ofNat k) = _
    rw [hw, F32.div_finite ha hfin hne, hsign, hvalue, Bool.bne_false]
    rfl

/-! ## Overflow, infinities, NaNs (R171) -/

theorem roundUnits_ofRat_eq_infCode_iff (q : Rat) :
    roundUnits (q.num.natAbs * 2 ^ 149) q.den = infCode ↔ 2 ^ 128 - 2 ^ 103 ≤ |q| := by
  have hscale : 2 ^ 277 - 2 ^ 252 = (2 ^ 128 - 2 ^ 103) * 2 ^ 149 := by rw [Nat.sub_mul, ← pow_add, ← pow_add]
  rw [roundUnits_eq_infCode_iff _ q.den_pos, abs_eq_natAbs_div_den, le_div_iff₀ (by exact_mod_cast q.den_pos), hscale,
    ← Nat.mul_assoc, Nat.mul_le_mul_right_iff (Nat.two_pow_pos 149), Nat.mul_comm, ← Nat.cast_le (α := Rat)]
  push_cast
  norm_num

theorem F32.ofRat_of_overflow {q : Rat} (h : 2 ^ 128 - 2 ^ 103 ≤ |q|) :
    F32.ofRat q = F32.ofCode (decide (q < 0)) infCode := by
  rw [F32.ofRat, (roundUnits_ofRat_eq_infCode_iff q).2 h]

theorem F32.finite_ofRat {q : Rat} (h : |q| < 2 ^ 128 - 2 ^ 103) : (F32.ofRat q).finite = true := by
  have hne := mt (roundUnits_ofRat_eq_infCode_iff q).1 (not_le.2 h)
  exact finiteBits_codeBits _ (lt_of_le_of_ne (roundUnits_le_infCode _ _) hne)

theorem F32.neg_infinity (s : Bool) : F32.neg (F32.ofCode s infCode) = F32.ofCode (!s) infCode := by
  rw [F32.ofCode_eq, F32.neg_val, signBit_infinity, magCode_infinity, F32.ofCode_eq]

section infinite
variable (s r : Bool) {b : BitVec 32}

theorem F32.add_infinity_finite (hb : finiteBits b = true) :
    F32.add (F32.ofCode s infCode) (.val b) = F32.ofCode s infCode := by
  simp [F32.ofCode_eq, F32.add, nanBits_of_finite hb, infBits_of_finite hb]

theorem F32.add_finite_infinity (hb : finiteBits b = true) :
    F32.add (.val b) (F32.ofCode s infCode) = F32.ofCode s infCode := by
  simp [F32.ofCode_eq, F32.add, nanBits_of_finite hb, infBits_of_finite hb]

theorem F32.add_infinities :
    F32.add (F32.ofCode s infCode) (F32.ofCode r infCode) = if s = r then F32.ofCode s infCode else .nan := by
  cases s <;> cases r <;> simp [F32.ofCode_eq, F32.add]

theorem F32.mul_infinity_finite (hb : finiteBits b = true) :
    F32.mul (F32.ofCode s infCode) (.val b) = if ratOfBits b = 0 then .nan else F32.ofCode (s != signBit b) infCode := by
  by_cases hzero : magCode b = 0 <;>
    simp [F32.ofCode_eq, F32.mul, nanBits_of_finite hb, ratOfBits_eq_zero_iff, hzero, show infCode ≠ 0 by decide]

theorem F32.mul_finite_infinity (hb : finiteBits b = true) :
    F32.mul (.val b) (F32.ofCode s infCode) = if ratOfBits b = 0 then .nan else F32.ofCode (signBit b != s) infCode := by
  by_cases hzero : magCode b = 0 <;>
    simp [F32.ofCode_eq, F32.mul, nanBits_of_finite hb, ratOfBits_eq_zero_iff, hzero, show infCode ≠ 0 by decide]

theorem F32.div_infinity_finite (hb : finiteBits b = true) :
    F32.div (F32.ofCode s infCode) (.val b) = F32.ofCode (s != signBit b) infCode := by
  simp [F32.ofCode_eq, F32.div, nanBits_of_finite hb, infBits_of_finite hb]

theorem F32.div_finite_infinity (hb : finiteBits b = true) :
    F32.div (.val b) (F32.ofCode s infCode) = F32.ofCode (signBit b != s) 0 := by
  simp [F32.ofCode_eq, F32.div, nanBits_of_finite hb, infBits_of_finite hb]

theorem F32.div_by_zero {a : BitVec 32} (ha : finiteBits a = true) (hb : finiteBits b = true) (hzero : ratOfBits b = 0) :
    F32.div (.val a) (.val b) =
      if ratOfBits a = 0 then .nan else F32.ofCode (signBit a != signBit b) infCode := by
  have hcode := (ratOfBits_eq_zero_iff b).1 hzero
  simp [F32.div, nanBits_of_finite ha, nanBits_of_finite hb, infBits_of_finite ha, infBits_of_finite hb, hcode,
    ratOfBits_eq_zero_iff]

end infinite

/-- A NaN is the one NaN or a NaN pattern, and each operation tests for both first (R171). -/
theorem F32.op_of_isNan {x y : F32} (h : x.isNan = true ∨ y.isNan = true) :
    F32.add x y = .nan ∧ F32.mul x y = .nan ∧ F32.div x y = .nan ∧ F32.gt x y = false := by
  cases x with
  | nan => exact ⟨rfl, rfl, rfl, rfl⟩
  | val a =>
    cases y with
    | nan => exact ⟨rfl, rfl, rfl, rfl⟩
    | val b =>
      have hnan : nanBits a = true ∨ nanBits b = true := h
      rcases hnan with hnan | hnan <;> simp [F32.add, F32.mul, F32.div, F32.gt, hnan]

theorem F32.isNan_neg {x : F32} (h : x.isNan = true) : (F32.neg x).isNan = true := by
  cases x with
  | nan => rfl
  | val w =>
    have hw : nanBits w = true := h
    rw [nanBits_iff] at hw
    show nanBits (codeBits _ _) = true
    rwa [nanBits_iff, magCode_codeBits _ (magCode_lt w)]

/-- Settles O34: overflow by the threshold, and each operation by its cases before the rounding. -/
theorem overflowInfinitiesAndNans : Obligations.OverflowInfinitiesAndNans := by
  refine ⟨fun q => ⟨F32.ofRat_of_overflow, F32.finite_ofRat⟩, fun s b hb => ?_, fun s r => ?_,
    fun a b ha hb hzero => F32.div_by_zero ha hb hzero, fun x y h => ?_⟩
  · refine ⟨F32.add_infinity_finite s hb, F32.add_finite_infinity s hb, ?_, ?_, F32.mul_infinity_finite s hb,
      F32.mul_finite_infinity s hb, F32.div_infinity_finite s hb, F32.div_finite_infinity s hb⟩
    · exact F32.add_infinity_finite s (F32.finite_neg hb)
    · rw [F32.sub, F32.neg_infinity]
      exact F32.add_finite_infinity (!s) hb
  · refine ⟨F32.add_infinities s r, ?_, ?_, ?_⟩
    · rw [F32.sub, F32.neg_infinity, F32.add_infinities]
      cases s <;> cases r <;> rfl
    · simp [F32.ofCode_eq, F32.mul, show infCode ≠ 0 by decide]
    · simp [F32.ofCode_eq, F32.div]
  · obtain ⟨hadd, hmul, hdiv, _⟩ := F32.op_of_isNan h
    exact ⟨hadd, (F32.op_of_isNan (h.imp_right F32.isNan_neg)).1, hmul, hdiv⟩

/-! ## The comparison (R220) -/

/-- The signed codes are in the order of the signed units, both zeros being one value. -/
theorem orderKey_lt_iff (a b : BitVec 32) : orderKey b < orderKey a ↔ signedUnits b < signedUnits a := by
  have hlt := unitsOfCode_strictMono.lt_iff_lt (a := magCode a) (b := magCode b)
  have hgt := unitsOfCode_strictMono.lt_iff_lt (a := magCode b) (b := magCode a)
  have hza := unitsOfCode_eq_zero_iff (m := magCode a)
  have hzb := unitsOfCode_eq_zero_iff (m := magCode b)
  unfold orderKey signedUnits
  cases signBit a <;> cases signBit b <;> simp only [Bool.false_eq_true, if_true, if_false] <;> omega

theorem F32.gt_finite {a b : BitVec 32} (ha : finiteBits a = true) (hb : finiteBits b = true) :
    F32.gt (.val a) (.val b) = true ↔ ratOfBits b < ratOfBits a := by
  rw [ratOfBits_eq, ratOfBits_eq, div_lt_div_iff_of_pos_right (by positivity), Int.cast_lt, ← orderKey_lt_iff]
  simp [F32.gt, nanBits_of_finite ha, nanBits_of_finite hb]

theorem orderKey_infinity (s : Bool) : orderKey (codeBits s infCode) = if s then -(infCode : Int) else infCode := by
  rw [orderKey, signBit_infinity, magCode_infinity]

/-- A finite value stands strictly between the infinities. -/
theorem orderKey_of_finite {b : BitVec 32} (hb : finiteBits b = true) :
    -(infCode : Int) < orderKey b ∧ orderKey b < infCode := by
  have hlt := magCode_lt_of_finite hb
  unfold orderKey
  generalize infCode = inf at hlt ⊢
  cases signBit b <;> simp only [Bool.false_eq_true, if_true, if_false] <;> omega

theorem F32.gt_self (x : F32) : F32.gt x x = false := by
  cases x with
  | val w => simp [F32.gt]
  | nan => rfl

/-- Settles O35: by the order of the signed codes. -/
theorem comparisonIsTheOrderOfValues : Obligations.ComparisonIsTheOrderOfValues := by
  refine ⟨fun a b => F32.gt_finite, fun s b hb => ?_, fun s r => ?_, fun x y h => (F32.op_of_isNan h).2.2.2,
    fun x y => ⟨rfl, F32.gt_self x⟩, fun p q => decide_eq_true_iff, fun d e m => ⟨rfl, ?_⟩⟩
  · obtain ⟨hlow, hhigh⟩ := orderKey_of_finite hb
    cases s <;> simp [F32.ofCode_eq, F32.gt, nanBits_of_finite hb, orderKey_infinity, hlow, hhigh, hlow.le, hhigh.le]
  · have hpos : 0 < infCode := by decide
    cases s <;> cases r <;> simp [F32.ofCode_eq, F32.gt, orderKey_infinity]
    omega
  · cases d with
    | binary32 => exact F32.gt_self _
    | exact => simp [Machine.rawBit, NUM.gt]

/-! ## The magnitude (R200) -/

/-- A square takes its code from the operand's and is positive, so the operand's sign has no effect. -/
theorem F32.mul_self_neg (w : BitVec 32) : F32.mul (F32.neg (.val w)) (F32.neg (.val w)) = F32.mul (.val w) (.val w) := by
  have hcode := magCode_codeBits (!signBit w) (magCode_lt w)
  rw [F32.neg_val]
  simp only [F32.mul, nanBits, infBits, hcode, bne_self_eq_false]

/-- Settles O36: each product is a square. -/
theorem magnitudeIgnoresSigns : Obligations.MagnitudeIgnoresSigns := by
  refine ⟨fun i q => ⟨rfl, ?_, ?_⟩, fun i q => ⟨rfl, ?_, ?_⟩⟩
  · simp only [Machine.magnitude, NUM.mul, NUM.toRat_exact, neg_mul_neg]
  · simp only [Machine.magnitude, NUM.mul, NUM.toRat_exact, neg_mul_neg]
  · simp only [Machine.magnitude, NUM.mul, NUM.toF32, F32.mul_self_neg]
  · simp only [Machine.magnitude, NUM.mul, NUM.toF32, F32.mul_self_neg]

/-- A positive value that is not a NaN. -/
def F32.NonNegative (x : F32) : Prop := ∃ w, x = .val w ∧ signBit w = false ∧ nanBits w = false

theorem F32.nonNegative_ofCode {m : Nat} (hm : m ≤ infCode) : (F32.ofCode false m).NonNegative :=
  ⟨codeBits false m, rfl, signBit_codeBits false (hm.trans_lt infCode_lt), nanBits_codeBits false hm⟩

theorem F32.mul_self_nonNegative {w : BitVec 32} (hw : finiteBits w = true) :
    (F32.mul (.val w) (.val w)).NonNegative := by
  have hmul : F32.mul (.val w) (.val w) = F32.ofCode false
      (roundUnits (unitsOfCode (magCode w) * unitsOfCode (magCode w)) (2 ^ 149)) := by
    simp [F32.mul, nanBits_of_finite hw, infBits_of_finite hw]
  rw [hmul]
  exact F32.nonNegative_ofCode (roundUnits_le_infCode _ _)

/-- Overflow to `+inf` included: two values that are not negative never are infinities of opposite signs. -/
theorem F32.add_nonNegative {x y : F32} (hx : x.NonNegative) (hy : y.NonNegative) : (F32.add x y).NonNegative := by
  obtain ⟨a, rfl, hsa, hna⟩ := hx
  obtain ⟨b, rfl, hsb, hnb⟩ := hy
  have hsum : ¬signedUnits a + signedUnits b < 0 := by
    simp only [signedUnits, hsa, hsb, Bool.false_eq_true, if_false]; omega
  by_cases hia : infBits a = true
  · exact ⟨a, by simp [F32.add, hna, hnb, hia, hsa, hsb], hsa, hna⟩
  · by_cases hib : infBits b = true
    · exact ⟨b, by simp [F32.add, hna, hnb, hia, hib], hsb, hnb⟩
    · have hadd : F32.add (.val a) (.val b) = roundSigned false (signedUnits a + signedUnits b) := by
        simp [F32.add, hna, hnb, hia, hib, hsa]
      rw [hadd, roundSigned, decide_eq_false hsum]
      split
      · exact F32.nonNegative_ofCode (Nat.zero_le _)
      · exact F32.nonNegative_ofCode (roundUnits_le_infCode _ _)

/-- Settles O37: a sum of two squares. -/
theorem magnitudeIsNeitherNegativeNorNan : Obligations.MagnitudeIsNeitherNegativeNorNan := by
  intro i q hi hq
  obtain ⟨w, hw, hsign, hnan⟩ := F32.add_nonNegative (F32.mul_self_nonNegative hi) (F32.mul_self_nonNegative hq)
  exact ⟨w, congrArg NUM.f32 hw, hsign, hnan⟩

end Sys2Proof
